-- ==== Sys2Proof/Word.lean ====
section
/-!
DEFINITION. The word types of the machine (00_scope.md R6, 30_encoding.md R71, R73). All values are unsigned.
-/

namespace Sys2Proof

/-- One memory cell or general register (R20, R50). -/
abbrev Byte := BitVec 8

/-- One instruction word, `PC`, `I`, a stack entry or `INFO` (R22, R23, R25, R30, R70). -/
abbrev Word := BitVec 16

/-- A 4-bit field of an instruction word: `op`, `x`, `y` or `n` (R71). -/
abbrev Nibble := BitVec 4

/-- The 12-bit immediate `nnn` (R73). -/
abbrev Imm12 := BitVec 12

end Sys2Proof
end

