-- ==== Sys2Proof/Syntax.lean ====
section
/-!
DEFINITION. The instructions: one constructor per row of spec/opcode_table.json (30_encoding.md R75), operands as the
fields of R71 and R73.
-/

namespace Sys2Proof

/-- One instruction. The comment gives the row's pattern and the rule of its effect. -/
inductive Instr where
  | cls                                  -- 00E0, R152
  | ret                                  -- 00EE, R106
  | jp (nnn : Imm12)                     -- 1nnn, R107
  | call (nnn : Imm12)                   -- 2nnn, R108
  | seImm (x : Nibble) (kk : Byte)       -- 3xkk, R110
  | sneImm (x : Nibble) (kk : Byte)      -- 4xkk, R111
  | seReg (x y : Nibble)                 -- 5xy0, R112
  | ldImm (x : Nibble) (kk : Byte)       -- 6xkk, R120
  | addImm (x : Nibble) (kk : Byte)      -- 7xkk, R121
  | ldReg (x y : Nibble)                 -- 8xy0, R123
  | orReg (x y : Nibble)                 -- 8xy1, R124
  | andReg (x y : Nibble)                -- 8xy2, R125
  | xorReg (x y : Nibble)                -- 8xy3, R126
  | addReg (x y : Nibble)                -- 8xy4, R127
  | subReg (x y : Nibble)                -- 8xy5, R128
  | shrReg (x y : Nibble)                -- 8xy6, R129
  | subnReg (x y : Nibble)               -- 8xy7, R130
  | shlReg (x y : Nibble)                -- 8xyE, R131
  | sneReg (x y : Nibble)                -- 9xy0, R113
  | ldI (nnn : Imm12)                    -- Annn, R140
  | jpb (nnn : Imm12)                    -- Bnnn, R109
  | rnd (x : Nibble) (kk : Byte)         -- Cxkk, R132
  | drw (x y n : Nibble)                 -- Dxyn, R153
  | addI (x : Nibble)                    -- Fx1E, R141
  | storeRegs (x : Nibble)               -- Fx55, R143
  | loadRegs (x : Nibble)                -- Fx65, R144
  | nopGetDt (x : Nibble)                -- Fx07, R186
  | nopKeyWait (x : Nibble)              -- Fx0A, R187
  | nopSkp (x : Nibble)                  -- Ex9E, R188
  | nopSknp (x : Nibble)                 -- ExA1, R189
  | nopBcd (x : Nibble)                  -- Fx33, R190
  | nopFont (x : Nibble)                 -- Fx29, R191
  | nopSetSt (x : Nibble)                -- Fx18, R193
  | haltUnrec (w : Word)                 -- any other word, R192
deriving DecidableEq, Repr

end Sys2Proof
end

