-- ==== Sys2Proof/WellFormed.lean ====
section
/-!
DEFINITION. Which terms of `Instr` are instructions of the machine. Every operand type holds exactly the values its field
admits (30_encoding.md R73), so the one check is that `HALT.UNREC` carries a word that no other row claims (R76).
-/

namespace Sys2Proof

/-- The words that match no executing and no stub pattern, by `op`, as the table of R76 lists them. -/
def unrecognized (w : Word) : Bool :=
  let n := w.extractLsb' 0 4
  let low := w.extractLsb' 0 8
  match (w.extractLsb' 12 4).toNat with
  | 0x0 => w != 0x00E0 && w != 0x00EE
  | 0x5 => n != 0
  | 0x8 => [0x8, 0x9, 0xA, 0xB, 0xC, 0xD, 0xF].contains n
  | 0x9 => n != 0
  | 0xE => !([0x9E, 0xA1].contains low)
  | 0xF => !([0x07, 0x0A, 0x18, 0x1E, 0x29, 0x33, 0x55, 0x65].contains low)
  | _ => false

/-- Well-formed instructions: an unrecognized word is one by R76. -/
def Instr.wf : Instr → Bool
  | .haltUnrec w => unrecognized w
  | _ => true

end Sys2Proof
end

