-- ==== Sys2Proof/Decode.lean ====
section
/-!
DEFINITION. The decoder and the encoder (30_encoding.md). A word splits into fields (R71); the dispatcher's map of R75 is
the table `rows`, read as the spec reads it: a word selects the row whose literal digits it matches, and a word that
matches none is unrecognized (R74, R76). The encoder is written from the same patterns.
-/

namespace Sys2Proof

/-! ## Fields (R71, R73) -/

/-- `op = w[15:12]`. -/
def opField (w : Word) : Nibble := w.extractLsb' 12 4
/-- `x = w[11:8]`. -/
def xField (w : Word) : Nibble := w.extractLsb' 8 4
/-- `y = w[7:4]`. -/
def yField (w : Word) : Nibble := w.extractLsb' 4 4
/-- `n = w[3:0]`. -/
def nField (w : Word) : Nibble := w.extractLsb' 0 4
/-- `kk = w[7:0]`. -/
def kkField (w : Word) : Byte := w.extractLsb' 0 8
/-- `nnn = w[11:0]`. -/
def nnnField (w : Word) : Imm12 := w.extractLsb' 0 12

/-- The word formed by two bytes, the one at the lower address high (R51, R70). -/
def wordOfBytes (hi lo : Byte) : Word := hi.setWidth 16 <<< 8 ||| lo.setWidth 16
/-- The byte of a word that lies at the lower address (R51). -/
def highByte (w : Word) : Byte := w.extractLsb' 8 8
/-- The byte of a word that lies at the higher address (R51). -/
def lowByte (w : Word) : Byte := w.extractLsb' 0 8

/-! ## The opcode map (R75) -/

/-- One row of the map: a word `w` selects it when `w & mask == pat`; `build` reads the operands. -/
structure Row where
  mask : Word
  pat : Word
  build : Word → Instr

/-- Whether a word selects a row (R75). -/
def Row.hits (r : Row) (w : Word) : Bool := w &&& r.mask == r.pat

/-- A row whose one operand is `nnn`. -/
def rowNNN (pat : Word) (c : Imm12 → Instr) : Row := ⟨0xF000, pat, fun w => c (nnnField w)⟩
/-- A row with the operands `x` and `kk`. -/
def rowXKK (pat : Word) (c : Nibble → Byte → Instr) : Row := ⟨0xF000, pat, fun w => c (xField w) (kkField w)⟩
/-- A row with the operands `x` and `y` and a literal `n`. -/
def rowXY (pat : Word) (c : Nibble → Nibble → Instr) : Row := ⟨0xF00F, pat, fun w => c (xField w) (yField w)⟩
/-- A row with the operand `x` and a literal low byte. -/
def rowX (pat : Word) (c : Nibble → Instr) : Row := ⟨0xF0FF, pat, fun w => c (xField w)⟩

/-- Rows of `op` 0 to 7. -/
def rowsLow : List Row :=
  [⟨0xFFFF, 0x00E0, fun _ => .cls⟩,
   ⟨0xFFFF, 0x00EE, fun _ => .ret⟩,
   rowNNN 0x1000 .jp,
   rowNNN 0x2000 .call,
   rowXKK 0x3000 .seImm,
   rowXKK 0x4000 .sneImm,
   rowXY 0x5000 .seReg,
   rowXKK 0x6000 .ldImm,
   rowXKK 0x7000 .addImm]

/-- Rows of `op` 8, the nine-member family. -/
def rowsAlu : List Row :=
  [rowXY 0x8000 .ldReg,
   rowXY 0x8001 .orReg,
   rowXY 0x8002 .andReg,
   rowXY 0x8003 .xorReg,
   rowXY 0x8004 .addReg,
   rowXY 0x8005 .subReg,
   rowXY 0x8006 .shrReg,
   rowXY 0x8007 .subnReg,
   rowXY 0x800E .shlReg]

/-- Rows of `op` 9 to F that execute. -/
def rowsHigh : List Row :=
  [rowXY 0x9000 .sneReg,
   rowNNN 0xA000 .ldI,
   rowNNN 0xB000 .jpb,
   rowXKK 0xC000 .rnd,
   ⟨0xF000, 0xD000, fun w => .drw (xField w) (yField w) (nField w)⟩,
   rowX 0xF01E .addI,
   rowX 0xF055 .storeRegs,
   rowX 0xF065 .loadRegs]

/-- The seven stub rows. PRESUMED by the spec: the patterns are its import from general knowledge (R77; log entry 12). -/
def rowsStub : List Row :=
  [rowX 0xF007 .nopGetDt,
   rowX 0xF00A .nopKeyWait,
   rowX 0xE09E .nopSkp,
   rowX 0xE0A1 .nopSknp,
   rowX 0xF033 .nopBcd,
   rowX 0xF029 .nopFont,
   rowX 0xF018 .nopSetSt]

/-- The map of R75 less its default row. -/
def rows : List Row := rowsLow ++ rowsAlu ++ rowsHigh ++ rowsStub

/-- Decode and dispatch one word: total, exactly one row (R72, R74, R93). -/
def decodeWord (w : Word) : Instr :=
  match rows.find? (fun r => r.hits w) with
  | some r => r.build w
  | none => .haltUnrec w

/-- Why a byte sequence decodes to nothing. -/
inductive DecodeError where
  /-- Fewer than two bytes: every instruction is two bytes wide (R70). -/
  | truncated
deriving DecidableEq, Repr

/-- Decode the first instruction of a byte sequence and give the bytes after it (R70). -/
def decode : List Byte → Except DecodeError (Instr × List Byte)
  | hi :: lo :: rest => .ok (decodeWord (wordOfBytes hi lo), rest)
  | _ => .error .truncated

/-! ## The encoder -/

/-- `(op << 12) | nnn`. -/
def packNNN (op : Nibble) (nnn : Imm12) : Word := op.setWidth 16 <<< 12 ||| nnn.setWidth 16
/-- `(op << 12) | (x << 8) | kk`. -/
def packXKK (op x : Nibble) (kk : Byte) : Word := op.setWidth 16 <<< 12 ||| x.setWidth 16 <<< 8 ||| kk.setWidth 16
/-- `(op << 12) | (x << 8) | (y << 4) | n` (R72). -/
def packXYN (op x y n : Nibble) : Word :=
  op.setWidth 16 <<< 12 ||| x.setWidth 16 <<< 8 ||| y.setWidth 16 <<< 4 ||| n.setWidth 16

/-- The word of an instruction, from the patterns of R75. -/
def encode : Instr → Word
  | .cls => 0x00E0
  | .ret => 0x00EE
  | .jp nnn => packNNN 0x1 nnn
  | .call nnn => packNNN 0x2 nnn
  | .seImm x kk => packXKK 0x3 x kk
  | .sneImm x kk => packXKK 0x4 x kk
  | .seReg x y => packXYN 0x5 x y 0x0
  | .ldImm x kk => packXKK 0x6 x kk
  | .addImm x kk => packXKK 0x7 x kk
  | .ldReg x y => packXYN 0x8 x y 0x0
  | .orReg x y => packXYN 0x8 x y 0x1
  | .andReg x y => packXYN 0x8 x y 0x2
  | .xorReg x y => packXYN 0x8 x y 0x3
  | .addReg x y => packXYN 0x8 x y 0x4
  | .subReg x y => packXYN 0x8 x y 0x5
  | .shrReg x y => packXYN 0x8 x y 0x6
  | .subnReg x y => packXYN 0x8 x y 0x7
  | .shlReg x y => packXYN 0x8 x y 0xE
  | .sneReg x y => packXYN 0x9 x y 0x0
  | .ldI nnn => packNNN 0xA nnn
  | .jpb nnn => packNNN 0xB nnn
  | .rnd x kk => packXKK 0xC x kk
  | .drw x y n => packXYN 0xD x y n
  | .addI x => packXKK 0xF x 0x1E
  | .storeRegs x => packXKK 0xF x 0x55
  | .loadRegs x => packXKK 0xF x 0x65
  | .nopGetDt x => packXKK 0xF x 0x07
  | .nopKeyWait x => packXKK 0xF x 0x0A
  | .nopSkp x => packXKK 0xE x 0x9E
  | .nopSknp x => packXKK 0xE x 0xA1
  | .nopBcd x => packXKK 0xF x 0x33
  | .nopFont x => packXKK 0xF x 0x29
  | .nopSetSt x => packXKK 0xF x 0x18
  | .haltUnrec w => w

/-- The bytes of an instruction in the order they lie in memory (R51). -/
def encodeBytes (i : Instr) : List Byte := [highByte (encode i), lowByte (encode i)]

/-! ## The host's question about the opcode table -/

/-- The low `nbits` bits of `w` as an instruction word, the bits above them zero. -/
def tableWord (nbits w : Nat) : Word := BitVec.ofNat 16 (w % 2 ^ nbits)

/-- What the decoder reads from an instruction whose bits are `w`, numbered as spec/opcode_table.json numbers them. -/
def decodeTableWord (nbits w : Nat) : Option Instr :=
  match decode [highByte (tableWord nbits w), lowByte (tableWord nbits w)] with
  | .ok (i, _) => some i
  | .error _ => none

end Sys2Proof
end

