-- ==== Sys2Proof/Config.lean ====
section
/-!
DEFINITION. The parameters of the block (00_scope.md R5) and the values the spec leaves free.
The parameters are one record of plain data that the state carries unchanged (log entry 2): a claim over every state is
then a claim over every value of every OPEN parameter. The free values are opaque constants: nothing can be proved of one.
-/

namespace Sys2Proof.Config

/-- `SHIFT_SRC` (R5, R129, D10): the register `8xy6` and `8xyE` shift. -/
inductive ShiftSrc where
  | x
  | y
deriving DecidableEq, Repr

/-- `DT_ZERO_POLICY` (R5, R168, D19): what a tick does to a count of zero. -/
inductive ZeroPolicy where
  | hold
  | wrap
deriving DecidableEq, Repr

/-- The parameters a model takes as arguments (R5). -/
structure Params where
  /-- `SHIFT_SRC`. -/
  shiftSrc : ShiftSrc
  /-- `STACK_DEPTH`; `none` is the source's unbounded stack (R25, D11). -/
  stackDepth : Option Nat
  /-- `MEM_INIT`, the memory image under the ROM, as (address, byte) pairs; every other byte is zero (R34, D14). -/
  memInit : List Host.Cell
  /-- `DT_ZERO_POLICY`. -/
  dtZeroPolicy : ZeroPolicy
  /-- `DT_SEED` (R171, D20). -/
  dtSeed : Option Byte
  /-- `SCALE`, forwarded unchanged in every `SetPixel` (R150, D34). -/
  scale : Nat
  /-- The debug-trace flag of R214. -/
  traceFlag : Bool
deriving DecidableEq, Repr

/-- `MEM_SIZE` (R5). -/
def memSize : Nat := 4096

/-- `LOAD_BASE` (R5), where the ROM image begins; also the reset value of `PC` (R24). -/
def loadBase : Nat := 0x200

/-- The byte the `k`-th executed `Cxkk` draws: a free value (R133, U1). UNCONSTRAINED: no body (log entry 5). -/
opaque randomByte : Nat → Byte

/-- How many ticks fall before the `k`-th step: a free value (R172, U2). UNCONSTRAINED: no body (log entry 6). -/
opaque ticksBefore : Nat → Nat

/-- `SCALE` less one, at reset: the spec says only that `SCALE` is a positive integer (R5). UNCONSTRAINED: no body
(log entry 3). -/
opaque scalePred : Nat

/-- The parameters at the spec's defaults (R5); the trace flag off is a DESIGN CHOICE (log entry 10). -/
def defaults : Params where
  shiftSrc := .x
  stackDepth := some 16
  memInit := []
  dtZeroPolicy := .hold
  dtSeed := none
  scale := scalePred + 1
  traceFlag := false

end Sys2Proof.Config
end

