-- ==== Sys2Proof/Machine/State.lean ====
section
/-!
DEFINITION. The state of the machine as plain data (10_state.md), the reasons a step can stop, and the state after reset.
-/

namespace Sys2Proof.Machine

/-- `RUN` (R30). -/
inductive Run where
  | running
  | halted
  | fatal
deriving DecidableEq, Repr

/-- `CAUSE` (R30), by the names of R200. -/
inductive Cause where
  | none
  | unrecognized
  | addressViolation
  | stackUnderflow
  | stackOverflow
deriving DecidableEq, Repr

/-- One command of the display command stream (R150): `x` is a column, `y` a row. -/
inductive DisplayCmd where
  | clear
  | setPixel (x : Fin 64) (y : Fin 32) (lit : Bool) (scale : Nat)
  | present
deriving DecidableEq, Repr

/-- `MEM` (R27, R50): the bytes that differ from what an unlisted address reads as, addresses strictly rising. -/
abbrev Memory := List Host.Cell

/-- `FB` (R28): 32 rows of 64 pixels, `true` is lit. -/
abbrev Screen := Vector (Vector Bool 64) 32

/-- The state (R34, R31, R32) and, last, what the model adds to it. -/
structure State where
  /-- `V[0]` to `V[15]` (R20). -/
  v : Vector Byte 16
  /-- `I` (R22). -/
  i : Word
  /-- `PC` (R23). -/
  pc : Word
  /-- The live entries `STK[SP-1]` to `STK[0]`, top first (R25); `SP` is its length. -/
  stack : List Word
  /-- `MEM` (R27). -/
  mem : Memory
  /-- `FB` (R28). -/
  fb : Screen
  /-- `RUN` (R30). -/
  run : Run
  /-- `CAUSE` (R30). -/
  cause : Cause
  /-- `INFO` (R30). -/
  info : Word
  /-- `DT_VALID` (R29). -/
  dtValid : Bool
  /-- `DT` (R29); read only while `DT_VALID = 1`. -/
  dt : Byte
  /-- A pending timer request (R31 item 4): while it is set the engine is blocked (R169). -/
  timerReq : Bool
  /-- The bytes `request()` has returned at the timer port, oldest first (R169, R213). -/
  replies : List Byte
  /-- The display command stream, oldest first (R32, R150). -/
  display : List DisplayCmd
  /-- The diagnostic stream, one instruction word per executed stub, oldest first (R32, R185). -/
  diag : List Word
  /-- The trace stream, one word per fetch while the trace flag is on, oldest first (R214). -/
  trace : List Word
  /-- Whether the engine has begun its first step: what parts R211's "before the run" from "during the run" (R232). -/
  started : Bool
  /-- The parameters of R5; no step changes them. -/
  cfg : Config.Params
  /-- The MODEL's own: how many random bytes have been drawn, the index of the next free one (R133; log entry 5). -/
  draws : Nat
  /-- The MODEL's own: how many steps have begun, the index of the next free number of ticks (R172; log entry 6). -/
  events : Nat
deriving DecidableEq, Repr

/-- Why `step` answers no state. Raising a fatal condition is not among these: that is a next state with `RUN = FATAL`
(R206; log entry 1). -/
inductive Fault where
  /-- Raised by `step` when `RUN = HALTED`: the engine takes no step (R90, R192). SAFE: the machine stands still too. -/
  | halted
  /-- Raised by `step` when `RUN = FATAL`: the engine takes no step (R90, R206). SAFE: the machine stands still too. -/
  | fatal
deriving DecidableEq, Repr

/-- Why an instruction has no meaning. -/
inductive Refusal where
  /-- Raised by `exec`'s arm of an instruction that has no meaning yet. SAFE: nothing is claimed of it. No arm uses it. -/
  | notModelled (mnemonic : String)
deriving DecidableEq, Repr

/-- The machine right after reset with no ROM loaded and every parameter at its default (R34, R230). The values of `dt`,
`draws` and `events` are the model's (log entries 4, 5, 6). -/
def State.reset : State where
  v := Vector.replicate 16 0
  i := 0
  pc := BitVec.ofNat 16 Config.loadBase
  stack := []
  mem := []
  fb := Vector.replicate 32 (Vector.replicate 64 false)
  run := .running
  cause := .none
  info := 0
  dtValid := false
  dt := 0
  timerReq := false
  replies := []
  display := []
  diag := []
  trace := []
  started := false
  cfg := Config.defaults
  draws := 0
  events := 0

end Sys2Proof.Machine
end

