-- ==== Sys2Proof/Machine/Ops.lean ====
section
/-!
DEFINITION. The named operations over registers, memory, stack, screen and streams (00_scope.md R8), the one operation that
ends a run (60_exceptions.md R206), the fetch (40_engine.md R91), and the ways an instruction completes (R94 to R97).
-/

namespace Sys2Proof.Machine

/-! ## Memory (20_memory.md) -/

/-- What an address that memory does not list reads as: the default of `MEM_INIT` (R34, D14). -/
def unlistedByte : Byte := 0

/-- `MEM[a]`. -/
def Memory.get : Memory → Nat → Byte
  | [], _ => unlistedByte
  | (k, b) :: t, a => if a = k then b else Memory.get t a

/-- The memory that no longer lists `a`. -/
def Memory.unlist (m : Memory) (a : Nat) : Memory := List.filter (fun c => c.1 != a) m

/-- The memory that lists `b` at `a`, addresses kept rising. -/
def Memory.list : Memory → Nat → Byte → Memory
  | [], a, b => [(a, b)]
  | (k, c) :: t, a, b =>
    if a < k then (a, b) :: (k, c) :: t
    else if a = k then (a, b) :: t
    else (k, c) :: Memory.list t a b

/-- `MEM[a] <- b`, keeping the canonical form: rising addresses, no byte listed that an unlisted address reads as. -/
def Memory.put (m : Memory) (a : Nat) (b : Byte) : Memory :=
  if b = unlistedByte then m.unlist a else m.list a b

/-- The canonical form from a lower bound on: addresses strictly rising and inside the 4096 bytes of R50, no byte equal to
what an unlisted address reads as. -/
def Memory.wfFrom : Nat → Memory → Bool
  | _, [] => true
  | lo, (k, b) :: t => decide (lo ≤ k) && decide (k < Config.memSize) && (b != unlistedByte) && Memory.wfFrom (k + 1) t

/-- Memory has its canonical form. -/
def Memory.wf (m : Memory) : Bool := Memory.wfFrom 0 m

/-- The memory a list of (address, byte) pairs describes; a later pair wins, a pair outside memory is dropped. -/
def Memory.ofCells (cells : List Host.Cell) : Memory :=
  cells.foldl (fun m c => if c.1 < Config.memSize then m.put c.1 c.2 else m) []

/-- The byte at an address of the state's memory. -/
def State.byteAt (s : State) (a : Nat) : Byte := s.mem.get a

/-! ## Registers (10_state.md R20 to R25) -/

/-- `V[x]`. -/
def State.reg (s : State) (x : Nibble) : Byte := s.v[x.toNat]'(x.isLt)

/-- `V[x] <- b`. -/
def State.setReg (s : State) (x : Nibble) (b : Byte) : State := { s with v := s.v.set x.toNat b x.isLt }

/-- `I <- a`. -/
def State.setI (s : State) (a : Word) : State := { s with i := a }

/-- `PC <- a`. -/
def State.setPc (s : State) (a : Word) : State := { s with pc := a }

/-- `SP` (R25). -/
def State.sp (s : State) : Nat := s.stack.length

/-- `STK[k]` for a live `k`; a dead entry is never shown (R25). -/
def State.stk (s : State) (k : Nat) : Option Word := s.stack.reverse[k]?

/-- `STK[SP] <- a; SP <- SP + 1` (R25). -/
def State.push (s : State) (a : Word) : State := { s with stack := a :: s.stack }

/-- The stack less its top, `SP <- SP - 1` (R25). -/
def State.popTo (s : State) (rest : List Word) : State := { s with stack := rest }

/-- Whether `SP = STACK_DEPTH`, never so when the depth is unbounded (R108, R203). -/
def State.stackFull (s : State) : Bool := decide (s.cfg.stackDepth = some s.sp)

/-! ## The end of a run (60_exceptions.md R206, R209) -/

/-- The one entry of R206: `RUN`, `CAUSE` and `INFO` are written and nothing else changes; `PC` keeps the address of the
instruction. There is no return from it: only reset leaves it (R209). -/
def State.stop (s : State) (r : Run) (c : Cause) (info : Word) : State := { s with run := r, cause := c, info := info }

/-- `raise Fatal(c, info)` (R8, R206). -/
def State.raise (s : State) (c : Cause) (info : Word) : State := s.stop .fatal c info

/-- `halt Unrecognized(w)` (R8, R192). -/
def State.haltUnrecognized (s : State) (w : Word) : State := s.stop .halted .unrecognized w

/-- The numeric code of a cause (R200). -/
def causeCode : Cause → BitVec 3
  | .none => 0
  | .unrecognized => 1
  | .addressViolation => 2
  | .stackUnderflow => 3
  | .stackOverflow => 4

/-! ## Memory access with its bound (R8, R55, R201). An `error` carries the state the raise leaves. -/

/-- `raise Fatal(AddressViolation, a)`. -/
def State.violate (s : State) (a : Nat) : State := s.raise .addressViolation (BitVec.ofNat 16 a)

/-- `MemRead(a, 1)`. -/
def State.memRead (s : State) (a : Nat) : Except State Byte :=
  if a < Config.memSize then .ok (s.byteAt a) else .error (s.violate a)

/-- `MEM[a] <- b` with no bound. -/
def State.putByte (s : State) (a : Nat) (b : Byte) : State := { s with mem := s.mem.put a b }

/-- `MemWrite(a, 1, b)`. -/
def State.memWrite (s : State) (a : Nat) (b : Byte) : Except State State :=
  if a < Config.memSize then .ok (s.putByte a b) else .error (s.violate a)

/-! ## Screen and streams (R28, R32, R150, R214) -/

/-- `FB[r][c]`. -/
def State.pixel (s : State) (r : Fin 32) (c : Fin 64) : Bool := s.fb[r][c]

/-- `FB[r][c] <- lit`. -/
def Screen.put (fb : Screen) (r : Fin 32) (c : Fin 64) (lit : Bool) : Screen := fb.set r (fb[r].set c lit)

/-- The blank screen. -/
def Screen.blank : Screen := Vector.replicate 32 (Vector.replicate 64 false)

/-- `emit` on the display command stream. -/
def State.emit (s : State) (c : DisplayCmd) : State := { s with display := s.display ++ [c] }

/-- `FB[r][c] <- FB[r][c] ^ 1` and `emit SetPixel(c, r, FB[r][c], SCALE)` with the new value (R153, R155). -/
def State.flipPixel (s : State) (r : Fin 32) (c : Fin 64) : State :=
  { s with fb := Screen.put s.fb r c (!s.pixel r c),
           display := s.display ++ [.setPixel c r (!s.pixel r c) s.cfg.scale] }

/-- Every pixel to 0 and `emit Clear` (R152). -/
def State.clearScreen (s : State) : State :=
  { s with fb := Screen.blank, display := s.display ++ [.clear] }

/-- `emit Diag(w)` (R185). -/
def State.emitDiag (s : State) (w : Word) : State := { s with diag := s.diag ++ [w] }

/-- `emit Trace(w)` when the trace flag is on (R214). -/
def State.emitTrace (s : State) (w : Word) : State :=
  { s with trace := if s.cfg.traceFlag then s.trace ++ [w] else s.trace }

/-! ## The random source (R133) -/

/-- The byte the next `draw()` gives: a FREE VALUE (log entry 5). -/
def State.nextRandom (s : State) : Byte := Config.randomByte s.draws

/-- The state after a `draw()`. -/
def State.drawn (s : State) : State := { s with draws := s.draws + 1 }

/-! ## Loops that a fatal condition ends (R63) -/

/-- `for i in is: body i`, abandoned at the first raise with what was done before it (R63, R206). -/
def forEach (body : Nat → State → Except State State) : List Nat → State → Except State State
  | [], s => .ok s
  | i :: is, s =>
    match body i s with
    | .ok s' => forEach body is s'
    | .error e => .error e

/-! ## The run (R211, R232) -/

/-- The engine has begun to step: the time before the run is over. -/
def State.start (s : State) : State := { s with started := true }

/-! ## Fetch (R91) -/

/-- The word at `PC`, high byte first; an `error` carries the state an AddressViolation leaves. -/
def State.fetch (s : State) : Except State Word :=
  match s.memRead s.pc.toNat with
  | .error e => .error e
  | .ok hi =>
    match s.memRead (s.pc.toNat + 1) with
    | .error e => .error e
    | .ok lo => .ok (wordOfBytes hi lo)

/-! ## How an instruction completes (R94 to R97) -/

/-- The per-cycle advance, `PC <- (PC + 2) mod 2^16`. -/
def State.advance (s : State) : State := s.setPc (s.pc + 2)

/-- Class NEXT (R95): the effect is done, the advance follows. -/
def done (s : State) : Host.Outcome State Fault Refusal := .next s.advance

/-- Class NEXT with an effect that may raise: a raise abandons the advance (R94, R206). -/
def finish : Except State State → Host.Outcome State Fault Refusal
  | .ok s => done s
  | .error e => .next e

/-- Class SKIP or NEXT (R95, R96): `PC + 2` extra when the condition holds, then the advance. -/
def skipIf (cond : Bool) (s : State) : Host.Outcome State Fault Refusal :=
  if cond then done s.advance else done s

/-- Class JUMP (R97): `PC <- target` and no advance. -/
def jumpTo (target : Word) (s : State) : Host.Outcome State Fault Refusal := .next (s.setPc target)

end Sys2Proof.Machine
end

