-- ==== Sys2Proof/Machine/Operands.lean ====
section
/-!
DEFINITION. How operands are formed (30_encoding.md R73, 43_index_memory.md R142, 44_display.md R154).
-/

namespace Sys2Proof.Machine

/-- `zext_16(nnn)` (R73). -/
def zextAddr (nnn : Imm12) : Word := nnn.setWidth 16

/-- `zext_16(V[x])` (R141). -/
def zextByte (b : Byte) : Word := b.setWidth 16

/-- The data address `I + k`, an exact sum (R55, R142). -/
def State.dataAddr (s : State) (k : Nat) : Nat := s.i.toNat + k

/-- The register `8xy6` and `8xyE` shift, by `SHIFT_SRC` (R129, R131, D10). -/
def State.shiftOperand (s : State) (x y : Nibble) : Byte :=
  match s.cfg.shiftSrc with
  | .x => s.reg x
  | .y => s.reg y

/-- The registers `V[0]` to `V[x]` inclusive, as the indexes a block transfer runs over (R143, R144). -/
def blockIndexes (x : Nibble) : List Nat := List.range (x.toNat + 1)

/-- The column `(V[x] + col) mod 64` (R154). -/
def spriteCol (vx : Byte) (col : Nat) : Fin 64 := ⟨(vx.toNat + col) % 64, Nat.mod_lt _ (by decide)⟩

/-- The row `(V[y] + row) mod 32` (R154). -/
def spriteRow (vy : Byte) (row : Nat) : Fin 32 := ⟨(vy.toNat + row) % 32, Nat.mod_lt _ (by decide)⟩

/-- Bit `col` of a sprite byte, column 0 the most significant (R153). -/
def spriteBit (b : Byte) (col : Nat) : Bool := b.getLsbD (7 - col)

end Sys2Proof.Machine
end

