-- ==== Sys2Proof/Machine/Flags.lean ====
section
/-!
DEFINITION. The machine has NO flags (10_state.md R26, 42_register_alu.md R122): carry, borrow and the bit shifted out are
discarded. What stands here is what takes their place: the 8-bit results of the arithmetic family, each reduced modulo 256,
and the conditions the four skips compare directly (41_control_flow.md R110 to R113).
-/

namespace Sys2Proof.Machine

/-- `(a + b) mod 256` (R121, R127). -/
def addBytes (a b : Byte) : Byte := a + b

/-- `(a - b) mod 256` (R128, R130). -/
def subBytes (a b : Byte) : Byte := a - b

/-- `a >> 1`, a zero moved in at bit 7 (R129). -/
def shiftRightOne (a : Byte) : Byte := a >>> 1

/-- `(a << 1) mod 256`, a zero moved in at bit 0 (R131). -/
def shiftLeftOne (a : Byte) : Byte := a <<< 1

/-- The condition of `3xkk` and `5xy0`: all eight bits equal (R110, R112). -/
def equalBytes (a b : Byte) : Bool := a == b

/-- The condition of `4xkk` and `9xy0`, the exact complement (R111, R113). -/
def differBytes (a b : Byte) : Bool := a != b

end Sys2Proof.Machine
end

