-- ==== Sys2Proof/Machine/Control.lean ====
section
/-!
DEFINITION. Control flow (41_control_flow.md): return, jumps, call, skips. `s.pc` is the address of the instruction (R23).
-/

namespace Sys2Proof.Machine

/-- `00EE` (R106): resume AT the popped address, which is the call's own (C2); underflow changes nothing else. -/
def execRet (s : State) : Host.Outcome State Fault Refusal :=
  match s.stack with
  | [] => .next (s.raise .stackUnderflow 0)
  | top :: rest => jumpTo top (s.popTo rest)

/-- `1nnn` (R107). -/
def execJp (nnn : Imm12) (s : State) : Host.Outcome State Fault Refusal := jumpTo (zextAddr nnn) s

/-- `2nnn` (R108): push the address of this very instruction; overflow only at a finite `STACK_DEPTH` (R203). -/
def execCall (nnn : Imm12) (s : State) : Host.Outcome State Fault Refusal :=
  if s.stackFull then .next (s.raise .stackOverflow s.pc) else jumpTo (zextAddr nnn) (s.push s.pc)

/-- `Bnnn` (R109): no register is added. -/
def execJpb (nnn : Imm12) (s : State) : Host.Outcome State Fault Refusal := jumpTo (zextAddr nnn) s

/-- `3xkk` (R110). -/
def execSeImm (x : Nibble) (kk : Byte) (s : State) : Host.Outcome State Fault Refusal :=
  skipIf (equalBytes (s.reg x) kk) s

/-- `4xkk` (R111). -/
def execSneImm (x : Nibble) (kk : Byte) (s : State) : Host.Outcome State Fault Refusal :=
  skipIf (differBytes (s.reg x) kk) s

/-- `5xy0` (R112). -/
def execSeReg (x y : Nibble) (s : State) : Host.Outcome State Fault Refusal :=
  skipIf (equalBytes (s.reg x) (s.reg y)) s

/-- `9xy0` (R113). -/
def execSneReg (x y : Nibble) (s : State) : Host.Outcome State Fault Refusal :=
  skipIf (differBytes (s.reg x) (s.reg y)) s

end Sys2Proof.Machine
end

