-- ==== Sys2Proof/Machine/Display.lean ====
section
/-!
DEFINITION. Clear and sprite draw (44_display.md). No register is written (R157); the frame wait is timing only (R156).
-/

namespace Sys2Proof.Machine

/-- `00E0` (R152): `Clear` alone, no `Present` (D32). -/
def execCls (s : State) : Host.Outcome State Fault Refusal := done s.clearScreen

/-- One bit of a sprite row: a set bit flips its pixel, a clear bit does nothing (R155). -/
def drawBit (vx vy b : Byte) (row : Nat) (s : State) (col : Nat) : State :=
  if spriteBit b col then s.flipPixel (spriteRow vy row) (spriteCol vx col) else s

/-- The eight bits of one sprite row, most significant first (R153). -/
def drawBits (vx vy b : Byte) (row : Nat) (s : State) : State := (List.range 8).foldl (drawBit vx vy b row) s

/-- One sprite row: read its byte at `I + row`, then its pixels (R153). -/
def drawRow (vx vy : Byte) (row : Nat) (s : State) : Except State State :=
  match s.memRead (s.dataAddr row) with
  | .ok b => .ok (drawBits vx vy b row s)
  | .error e => .error e

/-- After the last row, `emit Present`; after a raise, nothing (R153, R63). -/
def presentFrame : Except State State → Except State State
  | .ok s => .ok (s.emit .present)
  | .error e => .error e

/-- `Dxyn` (R153). -/
def execDrw (x y n : Nibble) (s : State) : Host.Outcome State Fault Refusal :=
  finish (presentFrame (forEach (drawRow (s.reg x) (s.reg y)) (List.range n.toNat) s))

end Sys2Proof.Machine
end

