-- ==== Sys2Proof/Machine/IndexMemory.lean ====
section
/-!
DEFINITION. The address register and the register block transfers (43_index_memory.md). `I` is not advanced by a transfer
(D18); a violation part-way keeps what was done before it (R63).
-/

namespace Sys2Proof.Machine

/-- `Annn` (R140). -/
def execLdI (nnn : Imm12) (s : State) : Host.Outcome State Fault Refusal := done (s.setI (zextAddr nnn))

/-- `Fx1E` (R141): the wrap is at 16 bits. -/
def execAddI (x : Nibble) (s : State) : Host.Outcome State Fault Refusal := done (s.setI (s.i + zextByte (s.reg x)))

/-- One transfer of `Fx55`: `MemWrite(I + k, 1, V[k])` (R143). -/
def storeOne (k : Nat) (s : State) : Except State State := s.memWrite (s.dataAddr k) (s.reg (BitVec.ofNat 4 k))

/-- One transfer of `Fx65`: `V[k] <- MemRead(I + k, 1)` (R144). -/
def loadOne (k : Nat) (s : State) : Except State State :=
  match s.memRead (s.dataAddr k) with
  | .ok b => .ok (s.setReg (BitVec.ofNat 4 k) b)
  | .error e => .error e

/-- `Fx55` (R143). -/
def execStoreRegs (x : Nibble) (s : State) : Host.Outcome State Fault Refusal :=
  finish (forEach storeOne (blockIndexes x) s)

/-- `Fx65` (R144). -/
def execLoadRegs (x : Nibble) (s : State) : Host.Outcome State Fault Refusal :=
  finish (forEach loadOne (blockIndexes x) s)

end Sys2Proof.Machine
end

