-- ==== Sys2Proof/Machine/RegisterAlu.lean ====
section
/-!
DEFINITION. Register load, arithmetic, logic, random (42_register_alu.md). The destination is `V[x]` (R134, D9); no flag is
written (R122).
-/

namespace Sys2Proof.Machine

/-- The shape of the family: one register write, then the advance (R122, R95). -/
def writeReg (x : Nibble) (b : Byte) (s : State) : Host.Outcome State Fault Refusal := done (s.setReg x b)

/-- `6xkk` (R120). -/
def execLdImm (x : Nibble) (kk : Byte) (s : State) : Host.Outcome State Fault Refusal := writeReg x kk s

/-- `7xkk` (R121). -/
def execAddImm (x : Nibble) (kk : Byte) (s : State) : Host.Outcome State Fault Refusal :=
  writeReg x (addBytes (s.reg x) kk) s

/-- `8xy0` (R123). -/
def execLdReg (x y : Nibble) (s : State) : Host.Outcome State Fault Refusal := writeReg x (s.reg y) s

/-- `8xy1` (R124). -/
def execOrReg (x y : Nibble) (s : State) : Host.Outcome State Fault Refusal := writeReg x (s.reg x ||| s.reg y) s

/-- `8xy2` (R125). -/
def execAndReg (x y : Nibble) (s : State) : Host.Outcome State Fault Refusal := writeReg x (s.reg x &&& s.reg y) s

/-- `8xy3` (R126). -/
def execXorReg (x y : Nibble) (s : State) : Host.Outcome State Fault Refusal := writeReg x (s.reg x ^^^ s.reg y) s

/-- `8xy4` (R127). -/
def execAddReg (x y : Nibble) (s : State) : Host.Outcome State Fault Refusal :=
  writeReg x (addBytes (s.reg x) (s.reg y)) s

/-- `8xy5` (R128). -/
def execSubReg (x y : Nibble) (s : State) : Host.Outcome State Fault Refusal :=
  writeReg x (subBytes (s.reg x) (s.reg y)) s

/-- `8xy6` (R129). -/
def execShrReg (x y : Nibble) (s : State) : Host.Outcome State Fault Refusal :=
  writeReg x (shiftRightOne (s.shiftOperand x y)) s

/-- `8xy7` (R130). -/
def execSubnReg (x y : Nibble) (s : State) : Host.Outcome State Fault Refusal :=
  writeReg x (subBytes (s.reg y) (s.reg x)) s

/-- `8xyE` (R131). -/
def execShlReg (x y : Nibble) (s : State) : Host.Outcome State Fault Refusal :=
  writeReg x (shiftLeftOne (s.shiftOperand x y)) s

/-- `Cxkk` (R132): exactly one draw, a free value (R133). -/
def execRnd (x : Nibble) (kk : Byte) (s : State) : Host.Outcome State Fault Refusal :=
  writeReg x (s.nextRandom &&& kk) s.drawn

end Sys2Proof.Machine
end

