-- ==== Sys2Proof/Machine/Stubs.lean ====
section
/-!
DEFINITION. The seven inert stubs and the unrecognized words (46_stubs_unrecognized.md). A stub emits `Diag(w)`, `w` its own
instruction word, and advances; `V[x]` is neither read nor written (R185).
-/

namespace Sys2Proof.Machine

/-- The common effect of every stub (R185, D27). -/
def stub (w : Word) (s : State) : Host.Outcome State Fault Refusal := done (s.emitDiag w)

/-- `Fx07` (R186). -/
def execNopGetDt (x : Nibble) (s : State) : Host.Outcome State Fault Refusal := stub (encode (.nopGetDt x)) s

/-- `Fx0A` (R187): it does not wait. -/
def execNopKeyWait (x : Nibble) (s : State) : Host.Outcome State Fault Refusal := stub (encode (.nopKeyWait x)) s

/-- `Ex9E` (R188): it never skips. -/
def execNopSkp (x : Nibble) (s : State) : Host.Outcome State Fault Refusal := stub (encode (.nopSkp x)) s

/-- `ExA1` (R189): it never skips. -/
def execNopSknp (x : Nibble) (s : State) : Host.Outcome State Fault Refusal := stub (encode (.nopSknp x)) s

/-- `Fx33` (R190): no memory access, so no fault. -/
def execNopBcd (x : Nibble) (s : State) : Host.Outcome State Fault Refusal := stub (encode (.nopBcd x)) s

/-- `Fx29` (R191): `I` is not changed. -/
def execNopFont (x : Nibble) (s : State) : Host.Outcome State Fault Refusal := stub (encode (.nopFont x)) s

/-- `Fx18` (R193). -/
def execNopSetSt (x : Nibble) (s : State) : Host.Outcome State Fault Refusal := stub (encode (.nopSetSt x)) s

/-- `HALT.UNREC` (R192): the run ends cleanly, `PC` keeps the word's address. -/
def execHaltUnrec (w : Word) (s : State) : Host.Outcome State Fault Refusal := .next (s.haltUnrecognized w)

end Sys2Proof.Machine
end

