-- ==== Sys2Proof/Machine/Timer.lean ====
section
/-!
DEFINITION. The delay-timer agent (45_delay_timer.md): its tick, its two operations, and the free schedule of its ticks.
No instruction reaches it (R174). `request` and `reinitialise` are the port the host drives between steps (R211).
-/

namespace Sys2Proof.Machine

/-- One tick's effect on the count (R167, R168). -/
def tickCount (p : Config.ZeroPolicy) (d : Byte) : Byte :=
  if d != 0 then d - 1
  else match p with
    | .hold => 0x00
    | .wrap => 0xFF

/-- `k` ticks one after another. -/
def tickTimes (p : Config.ZeroPolicy) : Nat → Byte → Byte
  | 0, d => d
  | k + 1, d => tickTimes p k (tickCount p d)

/-- `k` ticks of the agent, none of them enabled in UNINIT (R166, R167). -/
def State.ticks (s : State) (k : Nat) : State :=
  { s with dt := if s.dtValid then tickTimes s.cfg.dtZeroPolicy k s.dt else s.dt }

/-- The timer up to the next step: a FREE number of ticks (R172; log entry 6). -/
def State.elapse (s : State) : State :=
  { s.ticks (Config.ticksBefore s.events) with events := s.events + 1 }

/-- Serve a pending request: the count goes to the caller, which unblocks (R169). -/
def State.serve (s : State) : State := { s with timerReq := false, replies := s.replies ++ [s.dt] }

/-- Whether the port takes an operation: the run is on and the caller is not blocked by its own request (R169, R170, R175). -/
def State.portOpen (s : State) : Bool := decide (s.run = .running) && !s.timerReq

/-- `request()`, the caller's side (R169): in UNINIT the answer is 0 and no message is exchanged; otherwise the request
is sent and pends until the agent serves it. -/
def State.portRequest (s : State) : State :=
  if !s.portOpen then s
  else if s.dtValid then { s with timerReq := true }
  else { s with replies := s.replies ++ [0] }

/-- `reinitialise(seed)` (R170). -/
def State.portReinitialise (s : State) (seed : Byte) : State :=
  if s.portOpen then { s with dt := seed, dtValid := true } else s

end Sys2Proof.Machine
end

