-- ==== Sys2Proof/Machine/Step.lean ====
section
/-!
DEFINITION. One step of the machine (40_engine.md R90, R94): a free number of timer ticks (45_delay_timer.md R172), then
either the timer agent serves a pending request, the engine being blocked (R169), or the engine fetches, decodes and runs
one instruction.
-/

namespace Sys2Proof.Machine

/-- The engine's step in a state whose run is on: fetch, trace, decode, dispatch (R91 to R94, R214). -/
def engineStep (s : State) : Host.Outcome State Fault Refusal :=
  match s.fetch with
  | .error e => .next e
  | .ok w => exec (decodeWord w) (s.emitTrace w)

/-- The agent whose turn it is: the timer agent when a request pends, else the engine (R169, R99), whose first step ends
the time before the run (R232). -/
def agentStep (s : State) : Host.Outcome State Fault Refusal :=
  if s.timerReq then .next s.serve else engineStep s.start

/-- One step. A machine whose run is over takes none (R90, R206). -/
def step (s : State) : Host.Outcome State Fault Refusal :=
  match s.run with
  | .halted => .fault .halted
  | .fatal => .fault .fatal
  | .running => agentStep s.elapse

/-- `s` with the instruction of the table word `w` at `PC`, its high byte first (R51), the run on and no request pending,
so that the next step runs it. It stands for the ROM load of R233 (log entry 11). Nothing can be placed at a `PC` above
0xFFE, where no fetch succeeds (R91). -/
def State.withFetchWord (s : State) (nbits w : Nat) : State :=
  if s.pc.toNat + 1 < Config.memSize then
    { (s.putByte s.pc.toNat (highByte (tableWord nbits w))).putByte (s.pc.toNat + 1) (lowByte (tableWord nbits w)) with
      run := .running, timerReq := false }
  else s

end Sys2Proof.Machine
end

