-- ==== Sys2Proof/Machine/HostPort.lean ====
section
/-!
DEFINITION. What the host does before a run: reset under given parameters (70_reset_and_hazards.md R230) and the ROM load
(R233). The timer port is in Machine/Timer.lean.
-/

namespace Sys2Proof.Machine

/-- Reset under the parameters `p` (R230, R171): `MEM_INIT` in memory, the timer in RUNNING with `DT = DT_SEED` when a seed
is given, everything else as `State.reset`. -/
def State.resetWith (p : Config.Params) : State :=
  { State.reset with
    cfg := p
    mem := Memory.ofCells p.memInit
    dtValid := p.dtSeed.isSome
    dt := p.dtSeed.getD 0 }

/-- Write an image from address `a` on, one `MemWrite` a byte, abandoned at the first violation (R233, R212). -/
def loadFrom : Nat → List Byte → State → State
  | _, [], s => s
  | a, b :: bs, s =>
    match s.memWrite a b with
    | .ok s' => loadFrom (a + 1) bs s'
    | .error e => e

/-- Whether the host may still write memory: before the engine's first step (R211, R232), and not once `RUN` is `HALTED` or
`FATAL`, a failed load included (R206, R212). -/
def State.loadOpen (s : State) : Bool := decide (s.run = .running) && !s.started

/-- `load(rom)` at `LOAD_BASE` (R233). During the run and after its end the host has no access, and nothing changes
(R206, R211; log entry 20). -/
def State.load (s : State) (rom : List Byte) : State :=
  if s.loadOpen then loadFrom Config.loadBase rom s else s

/-- Reset, then load: where the engine starts (R232). -/
def State.boot (p : Config.Params) (rom : List Byte) : State := (State.resetWith p).load rom

end Sys2Proof.Machine
end

