-- ==== Sys2Proof/Safety.lean ====
section
/-!
DEFINITION. The terms claims are stated in: which parts of the state an instruction may change (10_state.md R35), the run
that counts as safe (60_exceptions.md R200), the invariants of 10_state.md R36 and 44_display.md R151, and what a sprite
draws (44_display.md R153 to R155).
-/

namespace Sys2Proof.Safety

open Sys2Proof.Machine

/-! ## Frames -/

/-- The parts of the state, as the columns of R35 and what stands beside them. -/
inductive Part where
  | regs
  | i
  | pc
  | stack
  | mem
  | screen
  | run
  | timer
  | diag
  | trace
  | started
  | cfg
  | draws
  | events
deriving DecidableEq, Repr

/-- Two states agree on a part. Memory is compared byte by byte, through the model's own read. -/
def sameAt (s t : State) : Part → Prop
  | .regs => ∀ r, t.reg r = s.reg r
  | .i => t.i = s.i
  | .pc => t.pc = s.pc
  | .stack => t.stack = s.stack
  | .mem => ∀ a, t.byteAt a = s.byteAt a
  | .screen => t.fb = s.fb ∧ t.display = s.display
  | .run => t.run = s.run ∧ t.cause = s.cause ∧ t.info = s.info
  | .timer => t.dtValid = s.dtValid ∧ t.dt = s.dt ∧ t.timerReq = s.timerReq ∧ t.replies = s.replies
  | .diag => t.diag = s.diag
  | .trace => t.trace = s.trace
  | .started => t.started = s.started
  | .cfg => t.cfg = s.cfg
  | .draws => t.draws = s.draws
  | .events => t.events = s.events

/-- From `s` to `t` nothing changes outside the parts `ps`. -/
def onlyChanges (ps : List Part) (s t : State) : Prop := ∀ p, p ∉ ps → sameAt s t p

/-- Every register but `x` is unchanged. -/
def regsKeptBut (x : Nibble) (s t : State) : Prop := ∀ r, r ≠ x → t.reg r = s.reg r

/-- The write columns of R35, with the control state for an instruction that can end the run. -/
def writes : Instr → List Part
  | .cls => [.pc, .screen]
  | .ret => [.pc, .stack, .run]
  | .jp _ => [.pc]
  | .call _ => [.pc, .stack, .run]
  | .seImm _ _ => [.pc]
  | .sneImm _ _ => [.pc]
  | .seReg _ _ => [.pc]
  | .ldImm _ _ => [.regs, .pc]
  | .addImm _ _ => [.regs, .pc]
  | .ldReg _ _ => [.regs, .pc]
  | .orReg _ _ => [.regs, .pc]
  | .andReg _ _ => [.regs, .pc]
  | .xorReg _ _ => [.regs, .pc]
  | .addReg _ _ => [.regs, .pc]
  | .subReg _ _ => [.regs, .pc]
  | .shrReg _ _ => [.regs, .pc]
  | .subnReg _ _ => [.regs, .pc]
  | .shlReg _ _ => [.regs, .pc]
  | .sneReg _ _ => [.pc]
  | .ldI _ => [.i, .pc]
  | .jpb _ => [.pc]
  | .rnd _ _ => [.regs, .pc, .draws]
  | .drw _ _ _ => [.pc, .screen, .run]
  | .addI _ => [.i, .pc]
  | .storeRegs _ => [.pc, .mem, .run]
  | .loadRegs _ => [.regs, .pc, .run]
  | .nopGetDt _ => [.pc, .diag]
  | .nopKeyWait _ => [.pc, .diag]
  | .nopSkp _ => [.pc, .diag]
  | .nopSknp _ => [.pc, .diag]
  | .nopBcd _ => [.pc, .diag]
  | .nopFont _ => [.pc, .diag]
  | .nopSetSt _ => [.pc, .diag]
  | .haltUnrec _ => [.run]

/-- Whether an instruction names register `r` as a destination (R21, R35). -/
def isDest : Instr → Nibble → Bool
  | .ldImm x _, r | .addImm x _, r | .rnd x _, r => r == x
  | .ldReg x _, r | .orReg x _, r | .andReg x _, r | .xorReg x _, r | .addReg x _, r | .subReg x _, r => r == x
  | .shrReg x _, r | .subnReg x _, r | .shlReg x _, r => r == x
  | .loadRegs x, r => decide (r.toNat ≤ x.toNat)
  | _, _ => false

/-! ## The end of a run -/

/-- The state a raise leaves its fault record in (R206). -/
def raised (c : Cause) (info : Nat) (t : State) : Prop := t.run = .fatal ∧ t.cause = c ∧ t.info.toNat = info

/-- A run that has met no fault (R200): `RUN` is not `FATAL`. -/
def noFault (s : State) : Prop := s.run ≠ .fatal

/-! ## Reset -/

/-- The byte a list of cells gives an address: the last one listed for it, else zero (`MEM_INIT`, R34, D14). -/
def listedByte (cells : List Host.Cell) (a : Nat) : Byte :=
  match cells.reverse.find? (fun c => c.1 == a) with
  | some c => c.2
  | none => 0

/-! ## Invariants -/

/-- R36 item 1: `SP <= STACK_DEPTH`. -/
def stackBounded (s : State) : Prop := ∀ d, s.cfg.stackDepth = some d → s.sp ≤ d

/-- R36 item 2: every live stack entry is at most 0xFFE. -/
def entriesBounded (s : State) : Prop := ∀ a ∈ s.stack, a.toNat ≤ 0xFFE

/-- R36 items 1 to 3. -/
def addressesBounded (s : State) : Prop := stackBounded s ∧ entriesBounded s ∧ s.pc.toNat ≤ 0x1002

/-- The table of R200, its `RUN` and `INFO` columns: an untouched record while running (R30), a word the decoder calls
unrecognized, an address outside memory, 0, and the address of the call, which `PC` keeps (D25). -/
def recordConsistent (s : State) : Prop :=
  match s.cause with
  | .none => s.run = .running ∧ s.info = 0
  | .unrecognized => s.run = .halted ∧ decodeWord s.info = .haltUnrec s.info
  | .addressViolation => s.run = .fatal ∧ Config.memSize ≤ s.info.toNat
  | .stackUnderflow => s.run = .fatal ∧ s.info = 0
  | .stackOverflow => s.run = .fatal ∧ s.info = s.pc

/-- A request pends only at an initialised timer (R169). -/
def requestSound (s : State) : Prop := s.timerReq = true → s.dtValid = true

/-- What one display command does to the sink's grid (R150). -/
def applyCmd (fb : Screen) : DisplayCmd → Screen
  | .clear => Screen.blank
  | .setPixel x y lit _ => Screen.put fb y x lit
  | .present => fb

/-- The grid a command stream leaves, from a blank one (R151). -/
def replay (cmds : List DisplayCmd) : Screen := cmds.foldl applyCmd Screen.blank

/-- R151: replaying the emitted command stream from a blank grid yields exactly `FB`. -/
def screenMatchesStream (s : State) : Prop := s.fb = replay s.display

/-- Every output stream of `t` continues that of `s` (R32). -/
def streamsGrow (s t : State) : Prop :=
  s.display <+: t.display ∧ s.diag <+: t.diag ∧ s.trace <+: t.trace ∧ s.replies <+: t.replies

/-! ## Sprites (R153 to R155) -/

/-- Bit `col` of row `row` of the sprite at `I` is set. -/
def spriteSet (s : State) (row col : Nat) : Bool := spriteBit (s.byteAt (s.i.toNat + row)) col

/-- Pixel (`r`, `c`) lies under a set bit of the first `n` rows of the sprite drawn at column `vx`, row `vy` (R154). -/
def covered (s : State) (vx vy : Byte) (n : Nat) (r : Fin 32) (c : Fin 64) : Prop :=
  ∃ row < n, ∃ col < 8, spriteSet s row col = true ∧
    c.val = (vx.toNat + col) % 64 ∧ r.val = (vy.toNat + row) % 32

/-- The `SetPixel` commands of the first `n` rows, rows ascending, bits most significant first, each with the pixel's new
value (R155). -/
def spriteCmds (s : State) (vx vy : Byte) (n : Nat) : List DisplayCmd :=
  (List.range n).flatMap fun row =>
    ((List.range 8).filter (spriteSet s row)).map fun col =>
      .setPixel (spriteCol vx col) (spriteRow vy row) (!s.pixel (spriteRow vy row) (spriteCol vx col)) s.cfg.scale

/-! ## Isolation of the timer (R174) -/

/-- `s` with another timer: a different count and a different initialised bit. -/
def withTimer (d : Byte) (valid : Bool) (s : State) : State := { s with dt := d, dtValid := valid }

/-- An outcome with its state changed. -/
def mapNext (f : State → State) : Host.Outcome State Fault Refusal → Host.Outcome State Fault Refusal
  | .next t => .next (f t)
  | .fault r => .fault r
  | .refused r => .refused r

end Sys2Proof.Safety
end

