-- ==== Sys2Proof/Certificates/Slice0/Obligations.lean ====
section
/-!
DEFINITION. The statements for the provers. Each docstring names the rules it formalises. A statement about an instruction
gives its result, that it answers a next state, and its frame: `onlyChanges` lists all it may touch.
-/

open Sys2Proof Sys2Proof.Machine Sys2Proof.Safety

/-! ## Encoding (30_encoding.md) -/

/-- One word of every row of R75, written out bit by bit from its pattern, decodes to its instruction. -/
def Obligations.WrittenWordsDecode : Prop :=
  decodeWord 0b0000000011100000 = .cls ∧
  decodeWord 0b0000000011101110 = .ret ∧
  decodeWord 0b0001101010111100 = .jp 0xABC ∧
  decodeWord 0b0010001100000000 = .call 0x300 ∧
  decodeWord 0b0011000100000101 = .seImm 1 0x05 ∧
  decodeWord 0b0100001000000110 = .sneImm 2 0x06 ∧
  decodeWord 0b0101000100100000 = .seReg 1 2 ∧
  decodeWord 0b0110101001000010 = .ldImm 10 0x42 ∧
  decodeWord 0b0111000000000101 = .addImm 0 0x05 ∧
  decodeWord 0b1000000100100000 = .ldReg 1 2 ∧
  decodeWord 0b1000000100100001 = .orReg 1 2 ∧
  decodeWord 0b1000000100100010 = .andReg 1 2 ∧
  decodeWord 0b1000000100100011 = .xorReg 1 2 ∧
  decodeWord 0b1000000100100100 = .addReg 1 2 ∧
  decodeWord 0b1000000100100101 = .subReg 1 2 ∧
  decodeWord 0b1000000100100110 = .shrReg 1 2 ∧
  decodeWord 0b1000000100100111 = .subnReg 1 2 ∧
  decodeWord 0b1000000100101110 = .shlReg 1 2 ∧
  decodeWord 0b1001101010110000 = .sneReg 10 11 ∧
  decodeWord 0b1010001100000000 = .ldI 0x300 ∧
  decodeWord 0b1011010000000000 = .jpb 0x400 ∧
  decodeWord 0b1100001000001111 = .rnd 2 0x0F ∧
  decodeWord 0b1101000100101111 = .drw 1 2 15 ∧
  decodeWord 0b1111001100011110 = .addI 3 ∧
  decodeWord 0b1111001001010101 = .storeRegs 2 ∧
  decodeWord 0b1111111101100101 = .loadRegs 15 ∧
  decodeWord 0b1111001100000111 = .nopGetDt 3 ∧
  decodeWord 0b1111010000001010 = .nopKeyWait 4 ∧
  decodeWord 0b1110000110011110 = .nopSkp 1 ∧
  decodeWord 0b1110001010100001 = .nopSknp 2 ∧
  decodeWord 0b1111010100110011 = .nopBcd 5 ∧
  decodeWord 0b1111011000101001 = .nopFont 6 ∧
  decodeWord 0b1111011100011000 = .nopSetSt 7 ∧
  decodeWord 0b1111001100010101 = .haltUnrec 0xF315

/-- R71, R75: decoding the bytes of any well-formed instruction gives it back, with the bytes that follow it. -/
def Obligations.DecodeOfEncode : Prop :=
  ∀ (i : Instr) (rest : List Byte), i.wf = true → decode (encodeBytes i ++ rest) = .ok (i, rest)

/-- R72, R74: every one of the 65536 words decodes to a well-formed instruction whose encoding is that word. -/
def Obligations.EncodeOfDecode : Prop :=
  ∀ w : Word, (decodeWord w).wf = true ∧ encode (decodeWord w) = w

/-- R76: the decoder calls unrecognized exactly the words of that rule's table. -/
def Obligations.UnrecognizedWordsExactly : Prop :=
  ∀ w : Word, decodeWord w = .haltUnrec w ↔ unrecognized w = true

/-- R72: the four fields reconstruct the word. -/
def Obligations.FieldsReconstructWord : Prop :=
  ∀ w : Word, (opField w).setWidth 16 <<< 12 ||| (xField w).setWidth 16 <<< 8 |||
    (yField w).setWidth 16 <<< 4 ||| (nField w).setWidth 16 = w

/-! ## Control flow (41_control_flow.md) -/

/-- R106, R202: a return pops the top entry into `PC` with no advance; on an empty stack it is fatal and changes nothing
but the fault record. Its word is 0x00EE. -/
def Obligations.ReturnPopsOrUnderflows : Prop :=
  decodeWord 0x00EE = .ret ∧ ∀ s : State,
    (s.sp ≠ 0 → ∃ t, exec .ret s = .next t ∧ t.sp = s.sp - 1 ∧ s.stk t.sp = some t.pc ∧
      (∀ k < t.sp, t.stk k = s.stk k) ∧ onlyChanges [.pc, .stack] s t) ∧
    (s.sp = 0 → ∃ t, exec .ret s = .next t ∧ raised .stackUnderflow 0 t ∧ onlyChanges [.run] s t)

/-- R107: `1nnn` sets `PC` to `nnn` with no advance, every other part unchanged, whatever `nnn` is. Its words
have `op = 1`. -/
def Obligations.JumpSetsPc : Prop :=
  ∀ nnn : Imm12, decodeWord (packNNN 0x1 nnn) = .jp nnn ∧
    ∀ s : State, ∃ t, exec (.jp nnn) s = .next t ∧ t.pc.toNat = nnn.toNat ∧ onlyChanges [.pc] s t

/-- R109: `Bnnn` does exactly what `1nnn` does; no register is added. That it takes no advance is the spec's reading D5. -/
def Obligations.PlainJumpAddsNoRegister : Prop :=
  ∀ (nnn : Imm12) (s : State), (∃ t, exec (.jpb nnn) s = .next t ∧ t.pc.toNat = nnn.toNat ∧ onlyChanges [.pc] s t) ∧
    exec (.jpb nnn) s = exec (.jp nnn) s

/-- R108, R203: a call pushes its own address and jumps; at a finite and full stack it is fatal and changes nothing but the
fault record. -/
def Obligations.CallPushesOwnAddressOrOverflows : Prop :=
  ∀ (nnn : Imm12) (s : State),
    (s.cfg.stackDepth ≠ some s.sp → ∃ t, exec (.call nnn) s = .next t ∧ t.pc.toNat = nnn.toNat ∧
      t.sp = s.sp + 1 ∧ t.stk s.sp = some s.pc ∧ (∀ k < s.sp, t.stk k = s.stk k) ∧ onlyChanges [.pc, .stack] s t) ∧
    (s.cfg.stackDepth = some s.sp → ∃ t, exec (.call nnn) s = .next t ∧ raised .stackOverflow s.pc.toNat t ∧
      onlyChanges [.run] s t)

/-- R106, R108, R236: a call and a return at once are the identity: execution is back ON the call. -/
def Obligations.CallThenReturnIsReentry : Prop :=
  ∀ (nnn : Imm12) (s : State), s.cfg.stackDepth ≠ some s.sp →
    ∃ t, exec (.call nnn) s = .next t ∧ exec .ret t = .next s

/-- R110, R111: `3xkk` and `4xkk` end at `PC + 4` when their condition holds and at `PC + 2` when not. Their
words have `op = 3` and `op = 4`. -/
def Obligations.ImmediateSkips : Prop :=
  ∀ (x : Nibble) (kk : Byte) (s : State),
    decodeWord (packXKK 0x3 x kk) = .seImm x kk ∧ decodeWord (packXKK 0x4 x kk) = .sneImm x kk ∧
    (∃ t, exec (.seImm x kk) s = .next t ∧ t.pc = (if s.reg x = kk then s.pc + 4 else s.pc + 2) ∧
      onlyChanges [.pc] s t) ∧
    (∃ t, exec (.sneImm x kk) s = .next t ∧ t.pc = (if s.reg x = kk then s.pc + 2 else s.pc + 4) ∧
      onlyChanges [.pc] s t)

/-- R112, R113: `5xy0` and `9xy0` likewise on two registers; with `x = y` the one always skips, the other never. -/
def Obligations.RegisterSkips : Prop :=
  ∀ (x y : Nibble) (s : State),
    (∃ t, exec (.seReg x y) s = .next t ∧ t.pc = (if s.reg x = s.reg y then s.pc + 4 else s.pc + 2) ∧
      onlyChanges [.pc] s t) ∧
    (∃ t, exec (.sneReg x y) s = .next t ∧ t.pc = (if s.reg x = s.reg y then s.pc + 2 else s.pc + 4) ∧
      onlyChanges [.pc] s t)

/-! ## Register load, arithmetic, logic, random (42_register_alu.md) -/

/-- R120, R121: `6xkk` loads `kk`, `7xkk` adds it modulo 256; no other register, VF included, changes. Their
words have `op = 6` and `op = 7`. -/
def Obligations.ImmediateLoadAndAdd : Prop :=
  ∀ (x : Nibble) (kk : Byte) (s : State),
    decodeWord (packXKK 0x6 x kk) = .ldImm x kk ∧ decodeWord (packXKK 0x7 x kk) = .addImm x kk ∧
    (∃ t, exec (.ldImm x kk) s = .next t ∧ t.reg x = kk ∧ t.pc = s.pc + 2 ∧
      regsKeptBut x s t ∧ onlyChanges [.regs, .pc] s t) ∧
    (∃ t, exec (.addImm x kk) s = .next t ∧ (t.reg x).toNat = ((s.reg x).toNat + kk.toNat) % 256 ∧ t.pc = s.pc + 2 ∧
      regsKeptBut x s t ∧ onlyChanges [.regs, .pc] s t)

/-- R123 to R126: assign, OR, AND and XOR of `8xy0` to `8xy3`, bit by bit. -/
def Obligations.AssignAndLogic : Prop :=
  ∀ (x y : Nibble) (s : State),
    (∃ t, exec (.ldReg x y) s = .next t ∧ t.reg x = s.reg y ∧ t.pc = s.pc + 2 ∧
      regsKeptBut x s t ∧ onlyChanges [.regs, .pc] s t) ∧
    (∃ t, exec (.orReg x y) s = .next t ∧
      (∀ k, (t.reg x).getLsbD k = ((s.reg x).getLsbD k || (s.reg y).getLsbD k)) ∧ t.pc = s.pc + 2 ∧
      regsKeptBut x s t ∧ onlyChanges [.regs, .pc] s t) ∧
    (∃ t, exec (.andReg x y) s = .next t ∧
      (∀ k, (t.reg x).getLsbD k = ((s.reg x).getLsbD k && (s.reg y).getLsbD k)) ∧ t.pc = s.pc + 2 ∧
      regsKeptBut x s t ∧ onlyChanges [.regs, .pc] s t) ∧
    (∃ t, exec (.xorReg x y) s = .next t ∧
      (∀ k, (t.reg x).getLsbD k = ((s.reg x).getLsbD k ^^ (s.reg y).getLsbD k)) ∧ t.pc = s.pc + 2 ∧
      regsKeptBut x s t ∧ onlyChanges [.regs, .pc] s t)

/-- R127, R128, R130: add, subtract and reverse-subtract of `8xy4`, `8xy5`, `8xy7`, modulo 256, no flag written. -/
def Obligations.AddAndSubtract : Prop :=
  ∀ (x y : Nibble) (s : State),
    (∃ t, exec (.addReg x y) s = .next t ∧ (t.reg x).toNat = ((s.reg x).toNat + (s.reg y).toNat) % 256 ∧
      t.pc = s.pc + 2 ∧ regsKeptBut x s t ∧ onlyChanges [.regs, .pc] s t) ∧
    (∃ t, exec (.subReg x y) s = .next t ∧
      ((t.reg x).toNat : Int) = (((s.reg x).toNat : Int) - (s.reg y).toNat) % 256 ∧
      t.pc = s.pc + 2 ∧ regsKeptBut x s t ∧ onlyChanges [.regs, .pc] s t) ∧
    (∃ t, exec (.subnReg x y) s = .next t ∧
      ((t.reg x).toNat : Int) = (((s.reg y).toNat : Int) - (s.reg x).toNat) % 256 ∧
      t.pc = s.pc + 2 ∧ regsKeptBut x s t ∧ onlyChanges [.regs, .pc] s t)

/-- R129, R131: `8xy6` and `8xyE` shift the register that `SHIFT_SRC` names, for both values of the parameter. -/
def Obligations.ShiftsByOne : Prop :=
  ∀ (x y src : Nibble) (s : State),
    (s.cfg.shiftSrc = .x ∧ src = x ∨ s.cfg.shiftSrc = .y ∧ src = y) →
    (∃ t, exec (.shrReg x y) s = .next t ∧ (t.reg x).toNat = (s.reg src).toNat / 2 ∧ t.pc = s.pc + 2 ∧
      regsKeptBut x s t ∧ onlyChanges [.regs, .pc] s t) ∧
    (∃ t, exec (.shlReg x y) s = .next t ∧ (t.reg x).toNat = (s.reg src).toNat * 2 % 256 ∧ t.pc = s.pc + 2 ∧
      regsKeptBut x s t ∧ onlyChanges [.regs, .pc] s t)

/-- R132, R133: `Cxkk` writes the next random byte masked by `kk`, whatever byte it is, and consumes exactly that one. -/
def Obligations.RandomMasksOneDraw : Prop :=
  ∀ (x : Nibble) (kk : Byte) (s : State),
    ∃ t, exec (.rnd x kk) s = .next t ∧ t.draws = s.draws + 1 ∧
      (∀ k, (t.reg x).getLsbD k = ((Config.randomByte s.draws).getLsbD k && kk.getLsbD k)) ∧ t.pc = s.pc + 2 ∧
      regsKeptBut x s t ∧ onlyChanges [.regs, .pc, .draws] s t

/-! ## Address register and block transfers (43_index_memory.md) -/

/-- R140, R141: `Annn` zero-extends into `I`; `Fx1E` adds modulo 65536 and writes no flag. Their words have
`op = A`, and `op = F` with the low byte 0x1E. -/
def Obligations.IndexLoadAndAdd : Prop :=
  (∀ (nnn : Imm12) (s : State), decodeWord (packNNN 0xA nnn) = .ldI nnn ∧
    ∃ t, exec (.ldI nnn) s = .next t ∧ t.i.toNat = nnn.toNat ∧ t.pc = s.pc + 2 ∧ onlyChanges [.i, .pc] s t) ∧
  (∀ (x : Nibble) (s : State), decodeWord (packXKK 0xF x 0x1E) = .addI x ∧ ∃ t, exec (.addI x) s = .next t ∧
    t.i.toNat = (s.i.toNat + (s.reg x).toNat) % 65536 ∧ t.pc = s.pc + 2 ∧ onlyChanges [.i, .pc] s t)

/-- R143, R63, R201: `Fx55` stores `V[0]` to `V[x]` at `I` on, `I` not advanced; where the block leaves memory it is fatal at
the first address outside, with the bytes before it stored. Every byte outside the block is unchanged. -/
def Obligations.BlockStore : Prop :=
  ∀ (x : Nibble) (s : State),
    (s.i.toNat + x.toNat ≤ 0xFFF → ∃ t, exec (.storeRegs x) s = .next t ∧
      (∀ k : Nibble, k.toNat ≤ x.toNat → t.byteAt (s.i.toNat + k.toNat) = s.reg k) ∧
      (∀ a, a < s.i.toNat ∨ s.i.toNat + x.toNat < a → t.byteAt a = s.byteAt a) ∧
      t.pc = s.pc + 2 ∧ onlyChanges [.pc, .mem] s t) ∧
    (0xFFF < s.i.toNat + x.toNat → ∃ t, exec (.storeRegs x) s = .next t ∧
      raised .addressViolation (max s.i.toNat 0x1000) t ∧
      (∀ k : Nibble, k.toNat ≤ x.toNat → s.i.toNat + k.toNat ≤ 0xFFF → t.byteAt (s.i.toNat + k.toNat) = s.reg k) ∧
      (∀ a, a < s.i.toNat ∨ 0xFFF < a → t.byteAt a = s.byteAt a) ∧ onlyChanges [.mem, .run] s t)

/-- R144, R63, R201: `Fx65` loads `V[0]` to `V[x]` from `I` on, `I` not advanced and memory unchanged; where the block leaves
memory it is fatal at the first address outside, with the registers before it loaded. -/
def Obligations.BlockLoad : Prop :=
  ∀ (x : Nibble) (s : State),
    (s.i.toNat + x.toNat ≤ 0xFFF → ∃ t, exec (.loadRegs x) s = .next t ∧
      (∀ k : Nibble, t.reg k = if k.toNat ≤ x.toNat then s.byteAt (s.i.toNat + k.toNat) else s.reg k) ∧
      t.pc = s.pc + 2 ∧ onlyChanges [.regs, .pc] s t) ∧
    (0xFFF < s.i.toNat + x.toNat → ∃ t, exec (.loadRegs x) s = .next t ∧
      raised .addressViolation (max s.i.toNat 0x1000) t ∧
      (∀ k : Nibble, t.reg k = if k.toNat ≤ x.toNat ∧ s.i.toNat + k.toNat ≤ 0xFFF then s.byteAt (s.i.toNat + k.toNat)
        else s.reg k) ∧ onlyChanges [.regs, .run] s t)

/-- R143, R144: the source's round trip. A block stored and then loaded from the same `I`, whatever the registers hold in
between, restores them. -/
def Obligations.StoreThenLoadRestores : Prop :=
  ∀ (x : Nibble) (s : State), s.i.toNat + x.toNat ≤ 0xFFF →
    ∃ t, exec (.storeRegs x) s = .next t ∧
      ∀ v : Vector Byte 16, ∃ u, exec (.loadRegs x) { t with v := v } = .next u ∧
        ∀ k : Nibble, k.toNat ≤ x.toNat → u.reg k = s.reg k

/-- R61, R143: a store is seen by the very next fetch, with no delay. -/
def Obligations.NextFetchSeesStore : Prop :=
  ∀ (x : Nibble) (s : State), 1 ≤ x.toNat → s.i.toNat + x.toNat ≤ 0xFFF → s.i = s.pc + 2 →
    ∃ t, exec (.storeRegs x) s = .next t ∧ t.fetch = .ok (wordOfBytes (s.reg 0) (s.reg 1))

/-! ## Display (44_display.md) -/

/-- R152: `00E0` blanks every pixel and emits `Clear` alone. -/
def Obligations.ClearBlanksScreen : Prop :=
  ∀ s : State, ∃ t, exec .cls s = .next t ∧ (∀ r c, t.pixel r c = false) ∧ t.display = s.display ++ [.clear] ∧
    t.pc = s.pc + 2 ∧ onlyChanges [.pc, .screen] s t

/-- R153, R154, R155: where all `n` rows lie in memory (`n = 0` included, whatever `I` holds) `Dxyn` inverts exactly the
pixels under set sprite bits, both axes wrapping, emits their `SetPixel` commands in order with the new values, then
`Present`; no register, VF included, changes. -/
def Obligations.DrawXorsSprite : Prop :=
  ∀ (x y n : Nibble) (s : State), (n = 0 ∨ s.i.toNat + n.toNat ≤ 0x1000) →
    ∃ t, exec (.drw x y n) s = .next t ∧
      (∀ r c, covered s (s.reg x) (s.reg y) n.toNat r c → t.pixel r c = !s.pixel r c) ∧
      (∀ r c, ¬ covered s (s.reg x) (s.reg y) n.toNat r c → t.pixel r c = s.pixel r c) ∧
      t.display = s.display ++ spriteCmds s (s.reg x) (s.reg y) n.toNat ++ [.present] ∧
      t.pc = s.pc + 2 ∧ onlyChanges [.pc, .screen] s t

/-- R153, R63, R201: where a row lies outside memory `Dxyn` is fatal at the first such address, with the rows before it drawn
and no `Present`. -/
def Obligations.DrawFaultKeepsDrawnRows : Prop :=
  ∀ (x y n : Nibble) (s : State), n ≠ 0 → 0x1000 < s.i.toNat + n.toNat →
    ∃ t, exec (.drw x y n) s = .next t ∧ raised .addressViolation (max s.i.toNat 0x1000) t ∧
      (∀ r c, covered s (s.reg x) (s.reg y) (0x1000 - s.i.toNat) r c → t.pixel r c = !s.pixel r c) ∧
      (∀ r c, ¬ covered s (s.reg x) (s.reg y) (0x1000 - s.i.toNat) r c → t.pixel r c = s.pixel r c) ∧
      t.display = s.display ++ spriteCmds s (s.reg x) (s.reg y) (0x1000 - s.i.toNat) ∧
      onlyChanges [.screen, .run] s t

/-- R155: drawing the same sprite twice at the same place erases it. -/
def Obligations.DrawTwiceErases : Prop :=
  ∀ (x y n : Nibble) (s : State), (n = 0 ∨ s.i.toNat + n.toNat ≤ 0x1000) →
    ∃ t u, exec (.drw x y n) s = .next t ∧ exec (.drw x y n) t = .next u ∧ u.fb = s.fb

/-! ## Stubs and unrecognized words (46_stubs_unrecognized.md) -/

/-- R185 and R186 to R191, R193: each of the seven stubs emits its own word on the diagnostic stream, advances by 2, and
changes nothing else. -/
def Obligations.StubsAreInert : Prop :=
  ∀ (x : Nibble) (s : State),
    ∀ i ∈ [Instr.nopGetDt x, .nopKeyWait x, .nopSkp x, .nopSknp x, .nopBcd x, .nopFont x, .nopSetSt x],
      ∃ t, exec i s = .next t ∧ t.diag = s.diag ++ [encode i] ∧ t.pc = s.pc + 2 ∧ onlyChanges [.pc, .diag] s t

/-- R192: an unrecognized word ends the run cleanly, its word in `INFO`, `PC` at its address, nothing else changed. -/
def Obligations.UnrecognizedEndsRun : Prop :=
  ∀ (w : Word) (s : State), ∃ t, exec (.haltUnrec w) s = .next t ∧ t.run = .halted ∧ t.cause = .unrecognized ∧
    t.info = w ∧ onlyChanges [.run] s t

/-! ## The delay timer (45_delay_timer.md) -/

/-- R167, R168: a tick does nothing in UNINIT; in RUNNING it takes one off a count that is not zero and follows
`DT_ZERO_POLICY` at zero; nothing but the count changes. -/
def Obligations.TickDecrements : Prop :=
  ∀ s : State,
    (s.dtValid = false → s.ticks 1 = s) ∧
    (s.dtValid = true → s.dt ≠ 0 → (s.ticks 1).dt.toNat = s.dt.toNat - 1) ∧
    (s.dtValid = true → s.dt = 0 → s.cfg.dtZeroPolicy = .hold → (s.ticks 1).dt = 0) ∧
    (s.dtValid = true → s.dt = 0 → s.cfg.dtZeroPolicy = .wrap → (s.ticks 1).dt = 0xFF) ∧
    onlyChanges [.timer] s (s.ticks 1) ∧ (s.ticks 1).dtValid = s.dtValid ∧ (s.ticks 1).timerReq = s.timerReq ∧
    (s.ticks 1).replies = s.replies

/-- R173: after `reinitialise(seed)` and `k` ticks a request is answered with `seed - k`, and beyond zero with 0 under
`hold` or `(seed - k) mod 256` under `wrap`. -/
def Obligations.ReplyAfterTicks : Prop :=
  ∀ (s : State) (seed : Byte) (k : Nat), s.portOpen = true →
    ∃ b : Byte, (((s.portReinitialise seed).ticks k).portRequest.serve).replies = s.replies ++ [b] ∧
      (k ≤ seed.toNat → b.toNat = seed.toNat - k) ∧
      (seed.toNat < k → s.cfg.dtZeroPolicy = .hold → b = 0) ∧
      (seed.toNat < k → s.cfg.dtZeroPolicy = .wrap → (b.toNat : Int) = ((seed.toNat : Int) - k) % 256)

/-- R169: in UNINIT a request is answered with 0 and no message is exchanged; otherwise the next step serves it with the
count as it then is, after the ticks that came before, and leaves the count and the engine alone. -/
def Obligations.RequestIsAnswered : Prop :=
  ∀ s : State, s.run = .running → s.timerReq = false →
    (s.dtValid = false → s.portRequest.replies = s.replies ++ [0] ∧ s.portRequest.timerReq = false ∧
      onlyChanges [.timer] s s.portRequest ∧ s.portRequest.dt = s.dt ∧ s.portRequest.dtValid = false) ∧
    (s.dtValid = true → ∃ t, step s.portRequest = .next t ∧ t.timerReq = false ∧ t.dtValid = true ∧
      t.dt = (s.ticks (Config.ticksBefore s.events)).dt ∧ t.replies = s.replies ++ [t.dt] ∧
      onlyChanges [.timer, .events] s t)

/-- R170: `reinitialise(seed)` replaces the count and makes the timer RUNNING; nothing else changes. -/
def Obligations.ReinitialiseReplacesCount : Prop :=
  ∀ (s : State) (seed : Byte), s.run = .running → s.timerReq = false →
    (s.portReinitialise seed).dt = seed ∧ (s.portReinitialise seed).dtValid = true ∧
    (s.portReinitialise seed).timerReq = false ∧ (s.portReinitialise seed).replies = s.replies ∧
    onlyChanges [.timer] s (s.portReinitialise seed)

/-- R174: no instruction observes or changes the timer: with another count and another initialised bit it does the same and
leaves that timer as it is. -/
def Obligations.InstructionsIgnoreTimer : Prop :=
  ∀ (i : Instr) (s : State) (d : Byte) (valid : Bool),
    exec i (withTimer d valid s) = mapNext (withTimer d valid) (exec i s)

/-- R173, R174: two runs that differ only in the timer go on so, step by step: a step of both leaves states that again
differ only in the timer's count and initialised bit, and again no request pends. -/
def Obligations.StepsIgnoreTimer : Prop :=
  ∀ (s t : State) (d : Byte) (valid : Bool), s.timerReq = false → step s = .next t →
    t.timerReq = false ∧ ∃ d' valid', step (withTimer d valid s) = .next (withTimer d' valid' t)

/-! ## The step and the end of a run (40_engine.md, 60_exceptions.md) -/

/-- R91 to R94: with the run on and no request pending, a step runs the instruction its two bytes decode to, in the state
after the ticks before it and the trace of its word; those change only the timer's count, the step counter, the trace
stream and the mark that the run has begun. -/
def Obligations.StepRunsDecodedInstruction : Prop :=
  ∀ (s : State) (i : Instr), s.run = .running → s.timerReq = false → s.pc.toNat + 1 ≤ 0xFFF →
    decode [s.byteAt s.pc.toNat, s.byteAt (s.pc.toNat + 1)] = .ok (i, []) → i.wf = true →
    ∃ s', step s = exec i s' ∧ onlyChanges [.timer, .trace, .started, .events] s s' ∧
      s'.started = true ∧ s'.events = s.events + 1 ∧
      s'.dt = (s.ticks (Config.ticksBefore s.events)).dt ∧ s'.dtValid = s.dtValid ∧ s'.timerReq = false ∧
      s'.replies = s.replies ∧
      s'.trace = s.trace ++ (if s.cfg.traceFlag then [wordOfBytes (s.byteAt s.pc.toNat) (s.byteAt (s.pc.toNat + 1))]
        else [])

/-- R91, R55, R201: a fetch outside memory is fatal at its first failing address, `PC` keeps its value, nothing is
executed or traced, and of the timer only the count has ticked. -/
def Obligations.FetchOutsideMemoryIsFatal : Prop :=
  ∀ s : State, s.run = .running → s.timerReq = false →
    (0x1000 ≤ s.pc.toNat → ∃ t, step s = .next t ∧ raised .addressViolation s.pc.toNat t ∧
      onlyChanges [.run, .timer, .started, .events] s t ∧ t.started = true ∧
      t.dt = (s.ticks (Config.ticksBefore s.events)).dt ∧ t.dtValid = s.dtValid ∧ t.timerReq = false ∧
      t.replies = s.replies) ∧
    (s.pc.toNat = 0xFFF → ∃ t, step s = .next t ∧ raised .addressViolation 0x1000 t ∧
      onlyChanges [.run, .timer, .started, .events] s t ∧ t.started = true ∧
      t.dt = (s.ticks (Config.ticksBefore s.events)).dt ∧ t.dtValid = s.dtValid ∧ t.timerReq = false ∧
      t.replies = s.replies)

/-- R90, R175, R206: a machine whose run is over takes no step, its timer port does nothing, and a ROM load does nothing:
no state changes. -/
def Obligations.EndedRunStandsStill : Prop :=
  ∀ s : State,
    (s.run = .halted → step s = .fault .halted) ∧ (s.run = .fatal → step s = .fault .fatal) ∧
    (s.run ≠ .running → s.portRequest = s ∧ (∀ seed, s.portReinitialise seed = s) ∧ ∀ rom, s.load rom = s)

/-- R90, R206: no instruction is refused and none stops the model: each answers a next state in every state, and a step
answers one whenever the run is on. -/
def Obligations.EveryInstructionAnswers : Prop :=
  (∀ (i : Instr) (s : State), ∃ t, exec i s = .next t) ∧ (∀ s : State, s.run = .running → ∃ t, step s = .next t)

/-- R35, R21: the access matrix. Whatever the state, an instruction changes nothing outside its row's written parts, and no
register but those it names as destinations; VF is no exception. -/
def Obligations.AccessMatrix : Prop :=
  ∀ (i : Instr) (s t : State), exec i s = .next t →
    onlyChanges (writes i) s t ∧ ∀ r, isDest i r = false → t.reg r = s.reg r

/-! ## Reset and load (70_reset_and_hazards.md) -/

/-- R34, R230: the state after reset under any parameters, the timer's apart (TimerAtReset). Memory holds `MEM_INIT`: each
byte the last one it lists there, else zero. -/
def Obligations.ResetState : Prop :=
  ∀ p : Config.Params,
    (State.resetWith p).pc = 0x200 ∧ (State.resetWith p).sp = 0 ∧ (∀ x, (State.resetWith p).reg x = 0) ∧
    (State.resetWith p).i = 0 ∧ (∀ r c, (State.resetWith p).pixel r c = false) ∧ (State.resetWith p).run = .running ∧
    (State.resetWith p).cause = .none ∧ (State.resetWith p).info = 0 ∧ (State.resetWith p).cfg = p ∧
    (State.resetWith p).started = false ∧ (State.resetWith p).display = [] ∧ (State.resetWith p).diag = [] ∧
    (∀ a, (State.resetWith p).byteAt a = if a < 0x1000 then listedByte p.memInit a else 0) ∧ State.resetWith Config.defaults = State.reset

/-- R171: without a seed the timer starts UNINIT and a request yields 0; with a seed it starts RUNNING at the seed. -/
def Obligations.TimerAtReset : Prop :=
  ∀ p : Config.Params,
    (p.dtSeed = none → (State.resetWith p).dtValid = false ∧ (State.resetWith p).portRequest.replies = [0]) ∧
    (∀ seed, p.dtSeed = some seed → (State.resetWith p).dtValid = true ∧ (State.resetWith p).dt = seed)

/-- R233, R212, R211, R232: before the engine's first step an image of at most 3584 bytes lies verbatim at 0x200 and nothing
else changes; a longer one is a fatal violation at 0x1000 and the run never starts. Once the run has begun or ended a load
changes nothing. -/
def Obligations.LoadPlacesImage : Prop :=
  ∀ (s : State) (rom : List Byte),
    (s.run = .running → s.started = false → rom.length ≤ 3584 → (∀ k (h : k < rom.length), (s.load rom).byteAt (0x200 + k) = rom[k]) ∧
      (∀ a, a < 0x200 ∨ 0x200 + rom.length ≤ a → (s.load rom).byteAt a = s.byteAt a) ∧
      onlyChanges [.mem] s (s.load rom)) ∧
    (s.run = .running → s.started = false → 3584 < rom.length → raised .addressViolation 0x1000 (s.load rom) ∧
      onlyChanges [.mem, .run] s (s.load rom) ∧ step (s.load rom) = .fault .fatal) ∧
    (s.run ≠ .running ∨ s.started = true → s.load rom = s)

/-! ## Invariants -/

/-- The invariants hold at reset, whatever the parameters. -/
def Obligations.ResetMeetsInvariants : Prop :=
  ∀ p : Config.Params,
    (State.resetWith p).mem.wf = true ∧ addressesBounded (State.resetWith p) ∧ recordConsistent (State.resetWith p) ∧
    requestSound (State.resetWith p) ∧ screenMatchesStream (State.resetWith p)

/-- Every step keeps the canonical form of memory. -/
def Obligations.StepKeepsMemoryCanonical : Prop :=
  ∀ s t : State, s.mem.wf = true → step s = .next t → t.mem.wf = true

/-- R36 items 1 to 3: `SP <= STACK_DEPTH`, every live entry at most 0xFFE, `PC` at most 0x1002. -/
def Obligations.StepKeepsAddressesBounded : Prop :=
  ∀ s t : State, addressesBounded s → step s = .next t → addressesBounded t

/-- R200, R30, R169: `RUN`, `CAUSE` and `INFO` agree as R200's table has them, the record is untouched while running, and a
request pends only at an initialised timer. -/
def Obligations.StepKeepsRecordConsistent : Prop :=
  ∀ s t : State, recordConsistent s → requestSound s → step s = .next t → recordConsistent t ∧ requestSound t

/-- R151: after any step, replaying the emitted command stream from a blank grid yields exactly `FB`. -/
def Obligations.StepKeepsScreenMatchingStream : Prop :=
  ∀ s t : State, screenMatchesStream s → step s = .next t → screenMatchesStream t

/-- What the host does keeps the invariants too (R211): a ROM load, a request, a reinitialise. -/
def Obligations.HostKeepsInvariants : Prop :=
  ∀ (s : State) (rom : List Byte) (seed : Byte),
    s.mem.wf = true → addressesBounded s → recordConsistent s → requestSound s → screenMatchesStream s →
    ∀ t ∈ [s.load rom, s.portRequest, s.portReinitialise seed],
      t.mem.wf = true ∧ addressesBounded t ∧ recordConsistent t ∧ requestSound t ∧ screenMatchesStream t

/-- R32: no step takes back what was emitted, R5: no step changes a parameter, and R211: a run that has begun stays so. -/
def Obligations.StreamsGrowAndParametersStay : Prop :=
  ∀ s t : State, step s = .next t → streamsGrow s t ∧ t.cfg = s.cfg ∧ (s.started = true → t.started = true)
end

