-- ==== Sys2Proof/Laws/Encoding.lean ====
section
/-!
SUPPORT. The fields of a packed word (30_encoding.md R71), and the one fact the table of R75 rests on: its rows are
disjoint (R74), so a word that hits a row decodes by that row.
-/

namespace Sys2Proof

/-! ## Fields of packed words -/

@[simp] theorem nnnField_packNNN (op : Nibble) (nnn : Imm12) : nnnField (packNNN op nnn) = nnn := by
  unfold nnnField packNNN; ext i hi; interval_cases i <;> simp

@[simp] theorem xField_packXKK (op x : Nibble) (kk : Byte) : xField (packXKK op x kk) = x := by
  unfold xField packXKK; ext i hi; interval_cases i <;> simp

@[simp] theorem kkField_packXKK (op x : Nibble) (kk : Byte) : kkField (packXKK op x kk) = kk := by
  unfold kkField packXKK; ext i hi; interval_cases i <;> simp

@[simp] theorem xField_packXYN (op x y n : Nibble) : xField (packXYN op x y n) = x := by
  unfold xField packXYN; ext i hi; interval_cases i <;> simp

@[simp] theorem yField_packXYN (op x y n : Nibble) : yField (packXYN op x y n) = y := by
  unfold yField packXYN; ext i hi; interval_cases i <;> simp

@[simp] theorem nField_packXYN (op x y n : Nibble) : nField (packXYN op x y n) = n := by
  unfold nField packXYN; ext i hi; interval_cases i <;> simp

/-! ## The literal digits of packed words -/

theorem packNNN_and (op : Nibble) (nnn : Imm12) : packNNN op nnn &&& 0xF000 = packNNN op 0 := by
  unfold packNNN; ext i hi; interval_cases i <;> simp

theorem packXKK_and_op (op x : Nibble) (kk : Byte) : packXKK op x kk &&& 0xF000 = packXKK op 0 0 := by
  unfold packXKK; ext i hi; interval_cases i <;> simp

theorem packXKK_and_low (op x : Nibble) (kk : Byte) : packXKK op x kk &&& 0xF0FF = packXKK op 0 kk := by
  unfold packXKK; ext i hi; interval_cases i <;> simp

theorem packXYN_and (op x y n : Nibble) : packXYN op x y n &&& 0xF00F = packXYN op 0 0 n := by
  unfold packXYN; ext i hi; interval_cases i <;> simp

theorem packXYN_and_op (op x y n : Nibble) : packXYN op x y n &&& 0xF000 = packXYN op 0 0 0 := by
  unfold packXYN; ext i hi; interval_cases i <;> simp

/-! ## Words and bytes -/

@[simp] theorem wordOfBytes_split (w : Word) : wordOfBytes (highByte w) (lowByte w) = w := by
  unfold wordOfBytes highByte lowByte; ext i hi; interval_cases i <;> simp

/-! ## Disjoint rows -/

/-- Two rows whose literal digits differ where both have one: no word hits both. -/
def Row.apart (r r' : Row) : Bool := (r.pat ^^^ r'.pat) &&& (r.mask &&& r'.mask) != 0

theorem Row.not_both {r r' : Row} (h : r.apart r' = true) {w : Word} (hw : r.hits w = true) : r'.hits w = false := by
  rw [Row.hits, beq_iff_eq] at hw
  rw [← Bool.not_eq_true, Row.hits, beq_iff_eq]
  intro hw'
  rw [Row.apart, bne_iff_ne] at h
  refine h ?_
  rw [← hw, ← hw']
  ext i hi
  simp only [BitVec.getElem_and, BitVec.getElem_xor, BitVec.getElem_zero, BitVec.ofNat_eq_ofNat]
  cases w[i] <;> cases r.mask[i] <;> cases r'.mask[i] <;> rfl

theorem rows_apart : rows.Pairwise (fun r r' => r.apart r' = true) := by
  show rowsLow ++ rowsAlu ++ rowsHigh ++ rowsStub |>.Pairwise (fun r r' => r.apart r' = true)
  simp [rowsLow, rowsAlu, rowsHigh, rowsStub, rowNNN, rowXKK, rowXY, rowX, Row.apart]

theorem find_of_apart {l : List Row} (hl : l.Pairwise (fun r r' => r.apart r' = true)) {r : Row} (hr : r ∈ l)
    {w : Word} (hw : r.hits w = true) : l.find? (fun r => r.hits w) = some r := by
  induction l with
  | nil => cases hr
  | cons q l ih =>
    rw [List.pairwise_cons] at hl
    rcases List.mem_cons.1 hr with rfl | hm
    · exact List.find?_cons_of_pos hw
    · rw [List.find?_cons_of_neg, ih hl.2 hm]
      intro hq
      rw [Row.not_both (hl.1 r hm) hq] at hw
      cases hw

/-- A word that hits a row of the table decodes by that row, wherever in the table the row stands (R74). -/
theorem decodeWord_of_hits {r : Row} (hr : r ∈ rows) {w : Word} (hw : r.hits w = true) : decodeWord w = r.build w := by
  unfold decodeWord
  rw [find_of_apart rows_apart hr hw]

/-- A word that hits no row is unrecognized (R76). -/
theorem decodeWord_of_no_hit {w : Word} (h : ∀ r ∈ rows, r.hits w = false) : decodeWord w = .haltUnrec w := by
  unfold decodeWord
  rw [List.find?_eq_none.2 (fun r hr => by simp [h r hr])]

/-- How a word decodes: by a row of the table that it hits, or as an unrecognized word. -/
theorem decodeWord_cases (w : Word) :
    (∃ r ∈ rows, r.hits w = true ∧ decodeWord w = r.build w) ∨
    ((∀ r ∈ rows, r.hits w = false) ∧ decodeWord w = .haltUnrec w) := by
  by_cases h : ∃ r ∈ rows, r.hits w = true
  · obtain ⟨r, hr, hw⟩ := h
    exact .inl ⟨r, hr, hw, decodeWord_of_hits hr hw⟩
  · have h' : ∀ r ∈ rows, r.hits w = false := fun r hr => Bool.eq_false_iff.2 fun hw => h ⟨r, hr, hw⟩
    exact .inr ⟨h', decodeWord_of_no_hit h'⟩

/-- Only the default row gives `HALT.UNREC`, with the word itself (R76). -/
theorem decodeWord_haltUnrec {w w' : Word} (h : decodeWord w = .haltUnrec w') : w' = w := by
  rcases decodeWord_cases w with ⟨r, hr, -, hd⟩ | ⟨-, hd⟩
  · rw [hd] at h
    simp only [rows, rowsLow, rowsAlu, rowsHigh, rowsStub, List.cons_append, List.nil_append, List.mem_cons,
      List.not_mem_nil, or_false] at hr
    rcases hr with rfl | rfl | rfl | rfl | rfl | rfl | rfl | rfl | rfl | rfl | rfl | rfl | rfl | rfl | rfl | rfl |
      rfl | rfl | rfl | rfl | rfl | rfl | rfl | rfl | rfl | rfl | rfl | rfl | rfl | rfl | rfl | rfl | rfl <;> cases h
  · rw [hd] at h; cases h; rfl

end Sys2Proof
end

