-- ==== Sys2Proof/Laws/Memory.lean ====
section
/-!
SUPPORT. The laws of memory: a read after a write (20_memory.md R58), and that every memory operation keeps the canonical
form, in which equal contents are equal lists.
-/

namespace Sys2Proof.Machine

@[simp] theorem Memory.get_nil (a : Nat) : Memory.get [] a = unlistedByte := rfl

theorem Memory.get_cons (k : Nat) (b : Byte) (t : Memory) (a : Nat) :
    Memory.get ((k, b) :: t) a = if a = k then b else Memory.get t a := rfl

theorem Memory.get_unlist (m : Memory) (a a' : Nat) :
    (m.unlist a).get a' = if a' = a then unlistedByte else m.get a' := by
  induction m with
  | nil => simp [Memory.unlist]
  | cons c t ih =>
    obtain ⟨k, b⟩ := c
    rw [Memory.unlist, List.filter_cons]
    change Memory.get (if (k != a) = true then (k, b) :: Memory.unlist t a else Memory.unlist t a) a' = _
    by_cases hk : k = a
    · subst hk
      by_cases h : a' = k
      · subst h; simpa using ih
      · simp [ih, Memory.get_cons, h]
    · by_cases h : a' = k
      · subst h; simp [Memory.get_cons, hk]
      · simp [Memory.get_cons, hk, h, ih]

theorem Memory.get_list (m : Memory) (a a' : Nat) (b : Byte) :
    (m.list a b).get a' = if a' = a then b else m.get a' := by
  induction m with
  | nil => rfl
  | cons c t ih =>
    obtain ⟨k, d⟩ := c
    simp only [Memory.list]
    split_ifs with h1 h2 h3 <;> simp only [Memory.get_cons, ih] <;> split_ifs <;> first | rfl | omega

/-- A read after a write: the byte written at its own address, the old byte at every other. -/
@[simp] theorem Memory.get_put (m : Memory) (a a' : Nat) (b : Byte) :
    (m.put a b).get a' = if a' = a then b else m.get a' := by
  unfold Memory.put
  split_ifs with h1 h2 h2 <;> simp_all [Memory.get_unlist, Memory.get_list]

theorem Memory.wfFrom_cons (lo k : Nat) (b : Byte) (t : Memory) :
    Memory.wfFrom lo ((k, b) :: t) = true ↔
      lo ≤ k ∧ k < Config.memSize ∧ b ≠ unlistedByte ∧ Memory.wfFrom (k + 1) t = true := by
  simp [Memory.wfFrom, and_assoc]

theorem Memory.wfFrom_weaken {lo lo' : Nat} (hle : lo' ≤ lo) {m : Memory} (h : Memory.wfFrom lo m = true) :
    Memory.wfFrom lo' m = true := by
  cases m with
  | nil => rfl
  | cons c t =>
    obtain ⟨k, b⟩ := c
    rw [Memory.wfFrom_cons] at h ⊢
    exact ⟨hle.trans h.1, h.2⟩

/-- Below the lower bound of a canonical form nothing is listed. -/
theorem Memory.get_below {lo : Nat} {m : Memory} (h : Memory.wfFrom lo m = true) {a : Nat} (ha : a < lo) :
    m.get a = unlistedByte := by
  induction m generalizing lo with
  | nil => rfl
  | cons c t ih =>
    obtain ⟨k, b⟩ := c
    rw [Memory.wfFrom_cons] at h
    rw [Memory.get_cons, if_neg (by omega)]
    exact ih h.2.2.2 (by omega)

theorem Memory.wfFrom_unlist {lo : Nat} {m : Memory} (h : Memory.wfFrom lo m = true) (a : Nat) :
    Memory.wfFrom lo (m.unlist a) = true := by
  induction m generalizing lo with
  | nil => rfl
  | cons c t ih =>
    obtain ⟨k, b⟩ := c
    rw [Memory.wfFrom_cons] at h
    rw [Memory.unlist, List.filter_cons]
    split_ifs
    · rw [Memory.wfFrom_cons]; exact ⟨h.1, h.2.1, h.2.2.1, ih h.2.2.2⟩
    · exact Memory.wfFrom_weaken (by omega) (ih h.2.2.2)

theorem Memory.wfFrom_list {lo : Nat} {m : Memory} (h : Memory.wfFrom lo m = true) {a : Nat} {b : Byte}
    (hlo : lo ≤ a) (ha : a < Config.memSize) (hb : b ≠ unlistedByte) : Memory.wfFrom lo (m.list a b) = true := by
  induction m generalizing lo with
  | nil => simp [Memory.list, hlo, ha, hb, Memory.wfFrom]
  | cons c t ih =>
    obtain ⟨k, d⟩ := c
    have h' := h
    rw [Memory.wfFrom_cons] at h'
    simp only [Memory.list]
    split_ifs with h1 h2
    · rw [Memory.wfFrom_cons]
      exact ⟨hlo, ha, hb, (Memory.wfFrom_cons _ _ _ _).2 ⟨h1, h'.2⟩⟩
    · subst h2; rw [Memory.wfFrom_cons]; exact ⟨hlo, ha, hb, h'.2.2.2⟩
    · rw [Memory.wfFrom_cons]; exact ⟨h'.1, h'.2.1, h'.2.2.1, ih h'.2.2.2 (by omega)⟩

/-- A write inside memory keeps the canonical form. -/
theorem Memory.wf_put {m : Memory} (h : m.wf = true) {a : Nat} (ha : a < Config.memSize) (b : Byte) :
    (m.put a b).wf = true := by
  unfold Memory.put Memory.wf
  split_ifs with hb
  · exact Memory.wfFrom_unlist h a
  · exact Memory.wfFrom_list h (Nat.zero_le _) ha hb

/-- One more cell: it wins at its own address if that lies in memory, and is dropped if not. -/
theorem Memory.get_ofCells_concat (cells : List Host.Cell) (c : Host.Cell) (a : Nat) :
    (Memory.ofCells (cells ++ [c])).get a =
      if a = c.1 ∧ c.1 < Config.memSize then c.2 else (Memory.ofCells cells).get a := by
  unfold Memory.ofCells
  rw [List.foldl_append, List.foldl_cons, List.foldl_nil]
  split_ifs <;> simp_all

/-- Every list of cells describes a memory in canonical form. -/
theorem Memory.wf_ofCells (cells : List Host.Cell) : (Memory.ofCells cells).wf = true := by
  unfold Memory.ofCells
  suffices h : ∀ m : Memory, m.wf = true →
      (cells.foldl (fun m c => if c.1 < Config.memSize then m.put c.1 c.2 else m) m).wf = true from h [] rfl
  induction cells with
  | nil => exact fun m hm => hm
  | cons c t ih =>
    intro m hm
    refine ih _ ?_
    dsimp only
    split_ifs with hc
    · exact Memory.wf_put hm hc _
    · exact hm

theorem Memory.ext_from {lo : Nat} {m m' : Memory} (h : Memory.wfFrom lo m = true) (h' : Memory.wfFrom lo m' = true)
    (heq : ∀ a, m.get a = m'.get a) : m = m' := by
  induction m generalizing lo m' with
  | nil =>
    cases m' with
    | nil => rfl
    | cons c t =>
      obtain ⟨k, b⟩ := c
      have := heq k
      rw [Memory.wfFrom_cons] at h'
      simp [Memory.get_cons] at this
      exact absurd this.symm h'.2.2.1
  | cons c t ih =>
    obtain ⟨k, b⟩ := c
    rw [Memory.wfFrom_cons] at h
    cases m' with
    | nil =>
      have := heq k
      simp [Memory.get_cons] at this
      exact absurd this h.2.2.1
    | cons c' t' =>
      obtain ⟨k', b'⟩ := c'
      rw [Memory.wfFrom_cons] at h'
      have hk : k = k' := by
        rcases lt_trichotomy k k' with hlt | heq' | hgt
        · have := heq k
          rw [Memory.get_cons, if_pos rfl, Memory.get_cons, if_neg (by omega),
            Memory.get_below h'.2.2.2 (by omega)] at this
          exact absurd this h.2.2.1
        · exact heq'
        · have := heq k'
          rw [Memory.get_cons, if_neg (by omega), Memory.get_below h.2.2.2 (by omega), Memory.get_cons,
            if_pos rfl] at this
          exact absurd this.symm h'.2.2.1
      subst hk
      have hb : b = b' := by simpa [Memory.get_cons] using heq k
      subst hb
      rw [ih h.2.2.2 h'.2.2.2 (fun a => ?_)]
      by_cases ha : a = k
      · subst ha; rw [Memory.get_below h.2.2.2 (by omega), Memory.get_below h'.2.2.2 (by omega)]
      · simpa [Memory.get_cons, ha] using heq a

/-- In canonical form equal contents are equal memories. -/
theorem Memory.ext_of_wf {m m' : Memory} (h : m.wf = true) (h' : m'.wf = true) (heq : ∀ a, m.get a = m'.get a) :
    m = m' := Memory.ext_from h h' heq

end Sys2Proof.Machine
end

