-- ==== Sys2Proof/Laws/State.lean ====
section
/-!
SUPPORT. What each update of the state does to each field: one lemma per field per update, true by unfolding. `raise`,
`haltUnrecognized` and `violate` are `stop` at given arguments, so their own lemmas only say so.
-/

namespace Sys2Proof.Machine

variable (s : State)

/-! ### setReg -/

@[simp] theorem State.setReg_v (x : Nibble) (b : Byte) : (s.setReg x b).v = s.v.set x.toNat b x.isLt := rfl
@[simp] theorem State.setReg_i (x : Nibble) (b : Byte) : (s.setReg x b).i = s.i := rfl
@[simp] theorem State.setReg_pc (x : Nibble) (b : Byte) : (s.setReg x b).pc = s.pc := rfl
@[simp] theorem State.setReg_stack (x : Nibble) (b : Byte) : (s.setReg x b).stack = s.stack := rfl
@[simp] theorem State.setReg_mem (x : Nibble) (b : Byte) : (s.setReg x b).mem = s.mem := rfl
@[simp] theorem State.setReg_fb (x : Nibble) (b : Byte) : (s.setReg x b).fb = s.fb := rfl
@[simp] theorem State.setReg_run (x : Nibble) (b : Byte) : (s.setReg x b).run = s.run := rfl
@[simp] theorem State.setReg_cause (x : Nibble) (b : Byte) : (s.setReg x b).cause = s.cause := rfl
@[simp] theorem State.setReg_info (x : Nibble) (b : Byte) : (s.setReg x b).info = s.info := rfl
@[simp] theorem State.setReg_dtValid (x : Nibble) (b : Byte) : (s.setReg x b).dtValid = s.dtValid := rfl
@[simp] theorem State.setReg_dt (x : Nibble) (b : Byte) : (s.setReg x b).dt = s.dt := rfl
@[simp] theorem State.setReg_timerReq (x : Nibble) (b : Byte) : (s.setReg x b).timerReq = s.timerReq := rfl
@[simp] theorem State.setReg_replies (x : Nibble) (b : Byte) : (s.setReg x b).replies = s.replies := rfl
@[simp] theorem State.setReg_display (x : Nibble) (b : Byte) : (s.setReg x b).display = s.display := rfl
@[simp] theorem State.setReg_diag (x : Nibble) (b : Byte) : (s.setReg x b).diag = s.diag := rfl
@[simp] theorem State.setReg_trace (x : Nibble) (b : Byte) : (s.setReg x b).trace = s.trace := rfl
@[simp] theorem State.setReg_started (x : Nibble) (b : Byte) : (s.setReg x b).started = s.started := rfl
@[simp] theorem State.setReg_cfg (x : Nibble) (b : Byte) : (s.setReg x b).cfg = s.cfg := rfl
@[simp] theorem State.setReg_draws (x : Nibble) (b : Byte) : (s.setReg x b).draws = s.draws := rfl
@[simp] theorem State.setReg_events (x : Nibble) (b : Byte) : (s.setReg x b).events = s.events := rfl

/-! ### setI -/

@[simp] theorem State.setI_v (a : Word) : (s.setI a).v = s.v := rfl
@[simp] theorem State.setI_i (a : Word) : (s.setI a).i = a := rfl
@[simp] theorem State.setI_pc (a : Word) : (s.setI a).pc = s.pc := rfl
@[simp] theorem State.setI_stack (a : Word) : (s.setI a).stack = s.stack := rfl
@[simp] theorem State.setI_mem (a : Word) : (s.setI a).mem = s.mem := rfl
@[simp] theorem State.setI_fb (a : Word) : (s.setI a).fb = s.fb := rfl
@[simp] theorem State.setI_run (a : Word) : (s.setI a).run = s.run := rfl
@[simp] theorem State.setI_cause (a : Word) : (s.setI a).cause = s.cause := rfl
@[simp] theorem State.setI_info (a : Word) : (s.setI a).info = s.info := rfl
@[simp] theorem State.setI_dtValid (a : Word) : (s.setI a).dtValid = s.dtValid := rfl
@[simp] theorem State.setI_dt (a : Word) : (s.setI a).dt = s.dt := rfl
@[simp] theorem State.setI_timerReq (a : Word) : (s.setI a).timerReq = s.timerReq := rfl
@[simp] theorem State.setI_replies (a : Word) : (s.setI a).replies = s.replies := rfl
@[simp] theorem State.setI_display (a : Word) : (s.setI a).display = s.display := rfl
@[simp] theorem State.setI_diag (a : Word) : (s.setI a).diag = s.diag := rfl
@[simp] theorem State.setI_trace (a : Word) : (s.setI a).trace = s.trace := rfl
@[simp] theorem State.setI_started (a : Word) : (s.setI a).started = s.started := rfl
@[simp] theorem State.setI_cfg (a : Word) : (s.setI a).cfg = s.cfg := rfl
@[simp] theorem State.setI_draws (a : Word) : (s.setI a).draws = s.draws := rfl
@[simp] theorem State.setI_events (a : Word) : (s.setI a).events = s.events := rfl

/-! ### setPc -/

@[simp] theorem State.setPc_v (a : Word) : (s.setPc a).v = s.v := rfl
@[simp] theorem State.setPc_i (a : Word) : (s.setPc a).i = s.i := rfl
@[simp] theorem State.setPc_pc (a : Word) : (s.setPc a).pc = a := rfl
@[simp] theorem State.setPc_stack (a : Word) : (s.setPc a).stack = s.stack := rfl
@[simp] theorem State.setPc_mem (a : Word) : (s.setPc a).mem = s.mem := rfl
@[simp] theorem State.setPc_fb (a : Word) : (s.setPc a).fb = s.fb := rfl
@[simp] theorem State.setPc_run (a : Word) : (s.setPc a).run = s.run := rfl
@[simp] theorem State.setPc_cause (a : Word) : (s.setPc a).cause = s.cause := rfl
@[simp] theorem State.setPc_info (a : Word) : (s.setPc a).info = s.info := rfl
@[simp] theorem State.setPc_dtValid (a : Word) : (s.setPc a).dtValid = s.dtValid := rfl
@[simp] theorem State.setPc_dt (a : Word) : (s.setPc a).dt = s.dt := rfl
@[simp] theorem State.setPc_timerReq (a : Word) : (s.setPc a).timerReq = s.timerReq := rfl
@[simp] theorem State.setPc_replies (a : Word) : (s.setPc a).replies = s.replies := rfl
@[simp] theorem State.setPc_display (a : Word) : (s.setPc a).display = s.display := rfl
@[simp] theorem State.setPc_diag (a : Word) : (s.setPc a).diag = s.diag := rfl
@[simp] theorem State.setPc_trace (a : Word) : (s.setPc a).trace = s.trace := rfl
@[simp] theorem State.setPc_started (a : Word) : (s.setPc a).started = s.started := rfl
@[simp] theorem State.setPc_cfg (a : Word) : (s.setPc a).cfg = s.cfg := rfl
@[simp] theorem State.setPc_draws (a : Word) : (s.setPc a).draws = s.draws := rfl
@[simp] theorem State.setPc_events (a : Word) : (s.setPc a).events = s.events := rfl

/-! ### push -/

@[simp] theorem State.push_v (a : Word) : (s.push a).v = s.v := rfl
@[simp] theorem State.push_i (a : Word) : (s.push a).i = s.i := rfl
@[simp] theorem State.push_pc (a : Word) : (s.push a).pc = s.pc := rfl
@[simp] theorem State.push_stack (a : Word) : (s.push a).stack = a :: s.stack := rfl
@[simp] theorem State.push_mem (a : Word) : (s.push a).mem = s.mem := rfl
@[simp] theorem State.push_fb (a : Word) : (s.push a).fb = s.fb := rfl
@[simp] theorem State.push_run (a : Word) : (s.push a).run = s.run := rfl
@[simp] theorem State.push_cause (a : Word) : (s.push a).cause = s.cause := rfl
@[simp] theorem State.push_info (a : Word) : (s.push a).info = s.info := rfl
@[simp] theorem State.push_dtValid (a : Word) : (s.push a).dtValid = s.dtValid := rfl
@[simp] theorem State.push_dt (a : Word) : (s.push a).dt = s.dt := rfl
@[simp] theorem State.push_timerReq (a : Word) : (s.push a).timerReq = s.timerReq := rfl
@[simp] theorem State.push_replies (a : Word) : (s.push a).replies = s.replies := rfl
@[simp] theorem State.push_display (a : Word) : (s.push a).display = s.display := rfl
@[simp] theorem State.push_diag (a : Word) : (s.push a).diag = s.diag := rfl
@[simp] theorem State.push_trace (a : Word) : (s.push a).trace = s.trace := rfl
@[simp] theorem State.push_started (a : Word) : (s.push a).started = s.started := rfl
@[simp] theorem State.push_cfg (a : Word) : (s.push a).cfg = s.cfg := rfl
@[simp] theorem State.push_draws (a : Word) : (s.push a).draws = s.draws := rfl
@[simp] theorem State.push_events (a : Word) : (s.push a).events = s.events := rfl

/-! ### popTo -/

@[simp] theorem State.popTo_v (l : List Word) : (s.popTo l).v = s.v := rfl
@[simp] theorem State.popTo_i (l : List Word) : (s.popTo l).i = s.i := rfl
@[simp] theorem State.popTo_pc (l : List Word) : (s.popTo l).pc = s.pc := rfl
@[simp] theorem State.popTo_stack (l : List Word) : (s.popTo l).stack = l := rfl
@[simp] theorem State.popTo_mem (l : List Word) : (s.popTo l).mem = s.mem := rfl
@[simp] theorem State.popTo_fb (l : List Word) : (s.popTo l).fb = s.fb := rfl
@[simp] theorem State.popTo_run (l : List Word) : (s.popTo l).run = s.run := rfl
@[simp] theorem State.popTo_cause (l : List Word) : (s.popTo l).cause = s.cause := rfl
@[simp] theorem State.popTo_info (l : List Word) : (s.popTo l).info = s.info := rfl
@[simp] theorem State.popTo_dtValid (l : List Word) : (s.popTo l).dtValid = s.dtValid := rfl
@[simp] theorem State.popTo_dt (l : List Word) : (s.popTo l).dt = s.dt := rfl
@[simp] theorem State.popTo_timerReq (l : List Word) : (s.popTo l).timerReq = s.timerReq := rfl
@[simp] theorem State.popTo_replies (l : List Word) : (s.popTo l).replies = s.replies := rfl
@[simp] theorem State.popTo_display (l : List Word) : (s.popTo l).display = s.display := rfl
@[simp] theorem State.popTo_diag (l : List Word) : (s.popTo l).diag = s.diag := rfl
@[simp] theorem State.popTo_trace (l : List Word) : (s.popTo l).trace = s.trace := rfl
@[simp] theorem State.popTo_started (l : List Word) : (s.popTo l).started = s.started := rfl
@[simp] theorem State.popTo_cfg (l : List Word) : (s.popTo l).cfg = s.cfg := rfl
@[simp] theorem State.popTo_draws (l : List Word) : (s.popTo l).draws = s.draws := rfl
@[simp] theorem State.popTo_events (l : List Word) : (s.popTo l).events = s.events := rfl

/-! ### stop -/

@[simp] theorem State.stop_v (r : Run) (c : Cause) (w : Word) : (s.stop r c w).v = s.v := rfl
@[simp] theorem State.stop_i (r : Run) (c : Cause) (w : Word) : (s.stop r c w).i = s.i := rfl
@[simp] theorem State.stop_pc (r : Run) (c : Cause) (w : Word) : (s.stop r c w).pc = s.pc := rfl
@[simp] theorem State.stop_stack (r : Run) (c : Cause) (w : Word) : (s.stop r c w).stack = s.stack := rfl
@[simp] theorem State.stop_mem (r : Run) (c : Cause) (w : Word) : (s.stop r c w).mem = s.mem := rfl
@[simp] theorem State.stop_fb (r : Run) (c : Cause) (w : Word) : (s.stop r c w).fb = s.fb := rfl
@[simp] theorem State.stop_run (r : Run) (c : Cause) (w : Word) : (s.stop r c w).run = r := rfl
@[simp] theorem State.stop_cause (r : Run) (c : Cause) (w : Word) : (s.stop r c w).cause = c := rfl
@[simp] theorem State.stop_info (r : Run) (c : Cause) (w : Word) : (s.stop r c w).info = w := rfl
@[simp] theorem State.stop_dtValid (r : Run) (c : Cause) (w : Word) : (s.stop r c w).dtValid = s.dtValid := rfl
@[simp] theorem State.stop_dt (r : Run) (c : Cause) (w : Word) : (s.stop r c w).dt = s.dt := rfl
@[simp] theorem State.stop_timerReq (r : Run) (c : Cause) (w : Word) : (s.stop r c w).timerReq = s.timerReq := rfl
@[simp] theorem State.stop_replies (r : Run) (c : Cause) (w : Word) : (s.stop r c w).replies = s.replies := rfl
@[simp] theorem State.stop_display (r : Run) (c : Cause) (w : Word) : (s.stop r c w).display = s.display := rfl
@[simp] theorem State.stop_diag (r : Run) (c : Cause) (w : Word) : (s.stop r c w).diag = s.diag := rfl
@[simp] theorem State.stop_trace (r : Run) (c : Cause) (w : Word) : (s.stop r c w).trace = s.trace := rfl
@[simp] theorem State.stop_started (r : Run) (c : Cause) (w : Word) : (s.stop r c w).started = s.started := rfl
@[simp] theorem State.stop_cfg (r : Run) (c : Cause) (w : Word) : (s.stop r c w).cfg = s.cfg := rfl
@[simp] theorem State.stop_draws (r : Run) (c : Cause) (w : Word) : (s.stop r c w).draws = s.draws := rfl
@[simp] theorem State.stop_events (r : Run) (c : Cause) (w : Word) : (s.stop r c w).events = s.events := rfl

/-! ### putByte -/

@[simp] theorem State.putByte_v (a : Nat) (b : Byte) : (s.putByte a b).v = s.v := rfl
@[simp] theorem State.putByte_i (a : Nat) (b : Byte) : (s.putByte a b).i = s.i := rfl
@[simp] theorem State.putByte_pc (a : Nat) (b : Byte) : (s.putByte a b).pc = s.pc := rfl
@[simp] theorem State.putByte_stack (a : Nat) (b : Byte) : (s.putByte a b).stack = s.stack := rfl
@[simp] theorem State.putByte_mem (a : Nat) (b : Byte) : (s.putByte a b).mem = s.mem.put a b := rfl
@[simp] theorem State.putByte_fb (a : Nat) (b : Byte) : (s.putByte a b).fb = s.fb := rfl
@[simp] theorem State.putByte_run (a : Nat) (b : Byte) : (s.putByte a b).run = s.run := rfl
@[simp] theorem State.putByte_cause (a : Nat) (b : Byte) : (s.putByte a b).cause = s.cause := rfl
@[simp] theorem State.putByte_info (a : Nat) (b : Byte) : (s.putByte a b).info = s.info := rfl
@[simp] theorem State.putByte_dtValid (a : Nat) (b : Byte) : (s.putByte a b).dtValid = s.dtValid := rfl
@[simp] theorem State.putByte_dt (a : Nat) (b : Byte) : (s.putByte a b).dt = s.dt := rfl
@[simp] theorem State.putByte_timerReq (a : Nat) (b : Byte) : (s.putByte a b).timerReq = s.timerReq := rfl
@[simp] theorem State.putByte_replies (a : Nat) (b : Byte) : (s.putByte a b).replies = s.replies := rfl
@[simp] theorem State.putByte_display (a : Nat) (b : Byte) : (s.putByte a b).display = s.display := rfl
@[simp] theorem State.putByte_diag (a : Nat) (b : Byte) : (s.putByte a b).diag = s.diag := rfl
@[simp] theorem State.putByte_trace (a : Nat) (b : Byte) : (s.putByte a b).trace = s.trace := rfl
@[simp] theorem State.putByte_started (a : Nat) (b : Byte) : (s.putByte a b).started = s.started := rfl
@[simp] theorem State.putByte_cfg (a : Nat) (b : Byte) : (s.putByte a b).cfg = s.cfg := rfl
@[simp] theorem State.putByte_draws (a : Nat) (b : Byte) : (s.putByte a b).draws = s.draws := rfl
@[simp] theorem State.putByte_events (a : Nat) (b : Byte) : (s.putByte a b).events = s.events := rfl

/-! ### emit -/

@[simp] theorem State.emit_v (c : DisplayCmd) : (s.emit c).v = s.v := rfl
@[simp] theorem State.emit_i (c : DisplayCmd) : (s.emit c).i = s.i := rfl
@[simp] theorem State.emit_pc (c : DisplayCmd) : (s.emit c).pc = s.pc := rfl
@[simp] theorem State.emit_stack (c : DisplayCmd) : (s.emit c).stack = s.stack := rfl
@[simp] theorem State.emit_mem (c : DisplayCmd) : (s.emit c).mem = s.mem := rfl
@[simp] theorem State.emit_fb (c : DisplayCmd) : (s.emit c).fb = s.fb := rfl
@[simp] theorem State.emit_run (c : DisplayCmd) : (s.emit c).run = s.run := rfl
@[simp] theorem State.emit_cause (c : DisplayCmd) : (s.emit c).cause = s.cause := rfl
@[simp] theorem State.emit_info (c : DisplayCmd) : (s.emit c).info = s.info := rfl
@[simp] theorem State.emit_dtValid (c : DisplayCmd) : (s.emit c).dtValid = s.dtValid := rfl
@[simp] theorem State.emit_dt (c : DisplayCmd) : (s.emit c).dt = s.dt := rfl
@[simp] theorem State.emit_timerReq (c : DisplayCmd) : (s.emit c).timerReq = s.timerReq := rfl
@[simp] theorem State.emit_replies (c : DisplayCmd) : (s.emit c).replies = s.replies := rfl
@[simp] theorem State.emit_display (c : DisplayCmd) : (s.emit c).display = s.display ++ [c] := rfl
@[simp] theorem State.emit_diag (c : DisplayCmd) : (s.emit c).diag = s.diag := rfl
@[simp] theorem State.emit_trace (c : DisplayCmd) : (s.emit c).trace = s.trace := rfl
@[simp] theorem State.emit_started (c : DisplayCmd) : (s.emit c).started = s.started := rfl
@[simp] theorem State.emit_cfg (c : DisplayCmd) : (s.emit c).cfg = s.cfg := rfl
@[simp] theorem State.emit_draws (c : DisplayCmd) : (s.emit c).draws = s.draws := rfl
@[simp] theorem State.emit_events (c : DisplayCmd) : (s.emit c).events = s.events := rfl

/-! ### flipPixel -/

@[simp] theorem State.flipPixel_v (r : Fin 32) (c : Fin 64) : (s.flipPixel r c).v = s.v := rfl
@[simp] theorem State.flipPixel_i (r : Fin 32) (c : Fin 64) : (s.flipPixel r c).i = s.i := rfl
@[simp] theorem State.flipPixel_pc (r : Fin 32) (c : Fin 64) : (s.flipPixel r c).pc = s.pc := rfl
@[simp] theorem State.flipPixel_stack (r : Fin 32) (c : Fin 64) : (s.flipPixel r c).stack = s.stack := rfl
@[simp] theorem State.flipPixel_mem (r : Fin 32) (c : Fin 64) : (s.flipPixel r c).mem = s.mem := rfl
@[simp] theorem State.flipPixel_fb (r : Fin 32) (c : Fin 64) : (s.flipPixel r c).fb = Screen.put s.fb r c (!s.pixel r c) := rfl
@[simp] theorem State.flipPixel_run (r : Fin 32) (c : Fin 64) : (s.flipPixel r c).run = s.run := rfl
@[simp] theorem State.flipPixel_cause (r : Fin 32) (c : Fin 64) : (s.flipPixel r c).cause = s.cause := rfl
@[simp] theorem State.flipPixel_info (r : Fin 32) (c : Fin 64) : (s.flipPixel r c).info = s.info := rfl
@[simp] theorem State.flipPixel_dtValid (r : Fin 32) (c : Fin 64) : (s.flipPixel r c).dtValid = s.dtValid := rfl
@[simp] theorem State.flipPixel_dt (r : Fin 32) (c : Fin 64) : (s.flipPixel r c).dt = s.dt := rfl
@[simp] theorem State.flipPixel_timerReq (r : Fin 32) (c : Fin 64) : (s.flipPixel r c).timerReq = s.timerReq := rfl
@[simp] theorem State.flipPixel_replies (r : Fin 32) (c : Fin 64) : (s.flipPixel r c).replies = s.replies := rfl
@[simp] theorem State.flipPixel_display (r : Fin 32) (c : Fin 64) : (s.flipPixel r c).display = s.display ++ [.setPixel c r (!s.pixel r c) s.cfg.scale] := rfl
@[simp] theorem State.flipPixel_diag (r : Fin 32) (c : Fin 64) : (s.flipPixel r c).diag = s.diag := rfl
@[simp] theorem State.flipPixel_trace (r : Fin 32) (c : Fin 64) : (s.flipPixel r c).trace = s.trace := rfl
@[simp] theorem State.flipPixel_started (r : Fin 32) (c : Fin 64) : (s.flipPixel r c).started = s.started := rfl
@[simp] theorem State.flipPixel_cfg (r : Fin 32) (c : Fin 64) : (s.flipPixel r c).cfg = s.cfg := rfl
@[simp] theorem State.flipPixel_draws (r : Fin 32) (c : Fin 64) : (s.flipPixel r c).draws = s.draws := rfl
@[simp] theorem State.flipPixel_events (r : Fin 32) (c : Fin 64) : (s.flipPixel r c).events = s.events := rfl

/-! ### clearScreen -/

@[simp] theorem State.clearScreen_v : s.clearScreen.v = s.v := rfl
@[simp] theorem State.clearScreen_i : s.clearScreen.i = s.i := rfl
@[simp] theorem State.clearScreen_pc : s.clearScreen.pc = s.pc := rfl
@[simp] theorem State.clearScreen_stack : s.clearScreen.stack = s.stack := rfl
@[simp] theorem State.clearScreen_mem : s.clearScreen.mem = s.mem := rfl
@[simp] theorem State.clearScreen_fb : s.clearScreen.fb = Screen.blank := rfl
@[simp] theorem State.clearScreen_run : s.clearScreen.run = s.run := rfl
@[simp] theorem State.clearScreen_cause : s.clearScreen.cause = s.cause := rfl
@[simp] theorem State.clearScreen_info : s.clearScreen.info = s.info := rfl
@[simp] theorem State.clearScreen_dtValid : s.clearScreen.dtValid = s.dtValid := rfl
@[simp] theorem State.clearScreen_dt : s.clearScreen.dt = s.dt := rfl
@[simp] theorem State.clearScreen_timerReq : s.clearScreen.timerReq = s.timerReq := rfl
@[simp] theorem State.clearScreen_replies : s.clearScreen.replies = s.replies := rfl
@[simp] theorem State.clearScreen_display : s.clearScreen.display = s.display ++ [.clear] := rfl
@[simp] theorem State.clearScreen_diag : s.clearScreen.diag = s.diag := rfl
@[simp] theorem State.clearScreen_trace : s.clearScreen.trace = s.trace := rfl
@[simp] theorem State.clearScreen_started : s.clearScreen.started = s.started := rfl
@[simp] theorem State.clearScreen_cfg : s.clearScreen.cfg = s.cfg := rfl
@[simp] theorem State.clearScreen_draws : s.clearScreen.draws = s.draws := rfl
@[simp] theorem State.clearScreen_events : s.clearScreen.events = s.events := rfl

/-! ### emitDiag -/

@[simp] theorem State.emitDiag_v (w : Word) : (s.emitDiag w).v = s.v := rfl
@[simp] theorem State.emitDiag_i (w : Word) : (s.emitDiag w).i = s.i := rfl
@[simp] theorem State.emitDiag_pc (w : Word) : (s.emitDiag w).pc = s.pc := rfl
@[simp] theorem State.emitDiag_stack (w : Word) : (s.emitDiag w).stack = s.stack := rfl
@[simp] theorem State.emitDiag_mem (w : Word) : (s.emitDiag w).mem = s.mem := rfl
@[simp] theorem State.emitDiag_fb (w : Word) : (s.emitDiag w).fb = s.fb := rfl
@[simp] theorem State.emitDiag_run (w : Word) : (s.emitDiag w).run = s.run := rfl
@[simp] theorem State.emitDiag_cause (w : Word) : (s.emitDiag w).cause = s.cause := rfl
@[simp] theorem State.emitDiag_info (w : Word) : (s.emitDiag w).info = s.info := rfl
@[simp] theorem State.emitDiag_dtValid (w : Word) : (s.emitDiag w).dtValid = s.dtValid := rfl
@[simp] theorem State.emitDiag_dt (w : Word) : (s.emitDiag w).dt = s.dt := rfl
@[simp] theorem State.emitDiag_timerReq (w : Word) : (s.emitDiag w).timerReq = s.timerReq := rfl
@[simp] theorem State.emitDiag_replies (w : Word) : (s.emitDiag w).replies = s.replies := rfl
@[simp] theorem State.emitDiag_display (w : Word) : (s.emitDiag w).display = s.display := rfl
@[simp] theorem State.emitDiag_diag (w : Word) : (s.emitDiag w).diag = s.diag ++ [w] := rfl
@[simp] theorem State.emitDiag_trace (w : Word) : (s.emitDiag w).trace = s.trace := rfl
@[simp] theorem State.emitDiag_started (w : Word) : (s.emitDiag w).started = s.started := rfl
@[simp] theorem State.emitDiag_cfg (w : Word) : (s.emitDiag w).cfg = s.cfg := rfl
@[simp] theorem State.emitDiag_draws (w : Word) : (s.emitDiag w).draws = s.draws := rfl
@[simp] theorem State.emitDiag_events (w : Word) : (s.emitDiag w).events = s.events := rfl

/-! ### emitTrace -/

@[simp] theorem State.emitTrace_v (w : Word) : (s.emitTrace w).v = s.v := rfl
@[simp] theorem State.emitTrace_i (w : Word) : (s.emitTrace w).i = s.i := rfl
@[simp] theorem State.emitTrace_pc (w : Word) : (s.emitTrace w).pc = s.pc := rfl
@[simp] theorem State.emitTrace_stack (w : Word) : (s.emitTrace w).stack = s.stack := rfl
@[simp] theorem State.emitTrace_mem (w : Word) : (s.emitTrace w).mem = s.mem := rfl
@[simp] theorem State.emitTrace_fb (w : Word) : (s.emitTrace w).fb = s.fb := rfl
@[simp] theorem State.emitTrace_run (w : Word) : (s.emitTrace w).run = s.run := rfl
@[simp] theorem State.emitTrace_cause (w : Word) : (s.emitTrace w).cause = s.cause := rfl
@[simp] theorem State.emitTrace_info (w : Word) : (s.emitTrace w).info = s.info := rfl
@[simp] theorem State.emitTrace_dtValid (w : Word) : (s.emitTrace w).dtValid = s.dtValid := rfl
@[simp] theorem State.emitTrace_dt (w : Word) : (s.emitTrace w).dt = s.dt := rfl
@[simp] theorem State.emitTrace_timerReq (w : Word) : (s.emitTrace w).timerReq = s.timerReq := rfl
@[simp] theorem State.emitTrace_replies (w : Word) : (s.emitTrace w).replies = s.replies := rfl
@[simp] theorem State.emitTrace_display (w : Word) : (s.emitTrace w).display = s.display := rfl
@[simp] theorem State.emitTrace_diag (w : Word) : (s.emitTrace w).diag = s.diag := rfl
@[simp] theorem State.emitTrace_trace (w : Word) : (s.emitTrace w).trace = if s.cfg.traceFlag then s.trace ++ [w] else s.trace := rfl
@[simp] theorem State.emitTrace_started (w : Word) : (s.emitTrace w).started = s.started := rfl
@[simp] theorem State.emitTrace_cfg (w : Word) : (s.emitTrace w).cfg = s.cfg := rfl
@[simp] theorem State.emitTrace_draws (w : Word) : (s.emitTrace w).draws = s.draws := rfl
@[simp] theorem State.emitTrace_events (w : Word) : (s.emitTrace w).events = s.events := rfl

/-! ### drawn -/

@[simp] theorem State.drawn_v : s.drawn.v = s.v := rfl
@[simp] theorem State.drawn_i : s.drawn.i = s.i := rfl
@[simp] theorem State.drawn_pc : s.drawn.pc = s.pc := rfl
@[simp] theorem State.drawn_stack : s.drawn.stack = s.stack := rfl
@[simp] theorem State.drawn_mem : s.drawn.mem = s.mem := rfl
@[simp] theorem State.drawn_fb : s.drawn.fb = s.fb := rfl
@[simp] theorem State.drawn_run : s.drawn.run = s.run := rfl
@[simp] theorem State.drawn_cause : s.drawn.cause = s.cause := rfl
@[simp] theorem State.drawn_info : s.drawn.info = s.info := rfl
@[simp] theorem State.drawn_dtValid : s.drawn.dtValid = s.dtValid := rfl
@[simp] theorem State.drawn_dt : s.drawn.dt = s.dt := rfl
@[simp] theorem State.drawn_timerReq : s.drawn.timerReq = s.timerReq := rfl
@[simp] theorem State.drawn_replies : s.drawn.replies = s.replies := rfl
@[simp] theorem State.drawn_display : s.drawn.display = s.display := rfl
@[simp] theorem State.drawn_diag : s.drawn.diag = s.diag := rfl
@[simp] theorem State.drawn_trace : s.drawn.trace = s.trace := rfl
@[simp] theorem State.drawn_started : s.drawn.started = s.started := rfl
@[simp] theorem State.drawn_cfg : s.drawn.cfg = s.cfg := rfl
@[simp] theorem State.drawn_draws : s.drawn.draws = s.draws + 1 := rfl
@[simp] theorem State.drawn_events : s.drawn.events = s.events := rfl

/-! ### start -/

@[simp] theorem State.start_v : s.start.v = s.v := rfl
@[simp] theorem State.start_i : s.start.i = s.i := rfl
@[simp] theorem State.start_pc : s.start.pc = s.pc := rfl
@[simp] theorem State.start_stack : s.start.stack = s.stack := rfl
@[simp] theorem State.start_mem : s.start.mem = s.mem := rfl
@[simp] theorem State.start_fb : s.start.fb = s.fb := rfl
@[simp] theorem State.start_run : s.start.run = s.run := rfl
@[simp] theorem State.start_cause : s.start.cause = s.cause := rfl
@[simp] theorem State.start_info : s.start.info = s.info := rfl
@[simp] theorem State.start_dtValid : s.start.dtValid = s.dtValid := rfl
@[simp] theorem State.start_dt : s.start.dt = s.dt := rfl
@[simp] theorem State.start_timerReq : s.start.timerReq = s.timerReq := rfl
@[simp] theorem State.start_replies : s.start.replies = s.replies := rfl
@[simp] theorem State.start_display : s.start.display = s.display := rfl
@[simp] theorem State.start_diag : s.start.diag = s.diag := rfl
@[simp] theorem State.start_trace : s.start.trace = s.trace := rfl
@[simp] theorem State.start_started : s.start.started = true := rfl
@[simp] theorem State.start_cfg : s.start.cfg = s.cfg := rfl
@[simp] theorem State.start_draws : s.start.draws = s.draws := rfl
@[simp] theorem State.start_events : s.start.events = s.events := rfl

/-! ### advance -/

@[simp] theorem State.advance_v : s.advance.v = s.v := rfl
@[simp] theorem State.advance_i : s.advance.i = s.i := rfl
@[simp] theorem State.advance_pc : s.advance.pc = s.pc + 2 := rfl
@[simp] theorem State.advance_stack : s.advance.stack = s.stack := rfl
@[simp] theorem State.advance_mem : s.advance.mem = s.mem := rfl
@[simp] theorem State.advance_fb : s.advance.fb = s.fb := rfl
@[simp] theorem State.advance_run : s.advance.run = s.run := rfl
@[simp] theorem State.advance_cause : s.advance.cause = s.cause := rfl
@[simp] theorem State.advance_info : s.advance.info = s.info := rfl
@[simp] theorem State.advance_dtValid : s.advance.dtValid = s.dtValid := rfl
@[simp] theorem State.advance_dt : s.advance.dt = s.dt := rfl
@[simp] theorem State.advance_timerReq : s.advance.timerReq = s.timerReq := rfl
@[simp] theorem State.advance_replies : s.advance.replies = s.replies := rfl
@[simp] theorem State.advance_display : s.advance.display = s.display := rfl
@[simp] theorem State.advance_diag : s.advance.diag = s.diag := rfl
@[simp] theorem State.advance_trace : s.advance.trace = s.trace := rfl
@[simp] theorem State.advance_started : s.advance.started = s.started := rfl
@[simp] theorem State.advance_cfg : s.advance.cfg = s.cfg := rfl
@[simp] theorem State.advance_draws : s.advance.draws = s.draws := rfl
@[simp] theorem State.advance_events : s.advance.events = s.events := rfl

/-! ### ticks -/

@[simp] theorem State.ticks_v (k : Nat) : (s.ticks k).v = s.v := rfl
@[simp] theorem State.ticks_i (k : Nat) : (s.ticks k).i = s.i := rfl
@[simp] theorem State.ticks_pc (k : Nat) : (s.ticks k).pc = s.pc := rfl
@[simp] theorem State.ticks_stack (k : Nat) : (s.ticks k).stack = s.stack := rfl
@[simp] theorem State.ticks_mem (k : Nat) : (s.ticks k).mem = s.mem := rfl
@[simp] theorem State.ticks_fb (k : Nat) : (s.ticks k).fb = s.fb := rfl
@[simp] theorem State.ticks_run (k : Nat) : (s.ticks k).run = s.run := rfl
@[simp] theorem State.ticks_cause (k : Nat) : (s.ticks k).cause = s.cause := rfl
@[simp] theorem State.ticks_info (k : Nat) : (s.ticks k).info = s.info := rfl
@[simp] theorem State.ticks_dtValid (k : Nat) : (s.ticks k).dtValid = s.dtValid := rfl
@[simp] theorem State.ticks_dt (k : Nat) : (s.ticks k).dt = if s.dtValid then tickTimes s.cfg.dtZeroPolicy k s.dt else s.dt := rfl
@[simp] theorem State.ticks_timerReq (k : Nat) : (s.ticks k).timerReq = s.timerReq := rfl
@[simp] theorem State.ticks_replies (k : Nat) : (s.ticks k).replies = s.replies := rfl
@[simp] theorem State.ticks_display (k : Nat) : (s.ticks k).display = s.display := rfl
@[simp] theorem State.ticks_diag (k : Nat) : (s.ticks k).diag = s.diag := rfl
@[simp] theorem State.ticks_trace (k : Nat) : (s.ticks k).trace = s.trace := rfl
@[simp] theorem State.ticks_started (k : Nat) : (s.ticks k).started = s.started := rfl
@[simp] theorem State.ticks_cfg (k : Nat) : (s.ticks k).cfg = s.cfg := rfl
@[simp] theorem State.ticks_draws (k : Nat) : (s.ticks k).draws = s.draws := rfl
@[simp] theorem State.ticks_events (k : Nat) : (s.ticks k).events = s.events := rfl

/-! ### elapse -/

@[simp] theorem State.elapse_v : s.elapse.v = s.v := rfl
@[simp] theorem State.elapse_i : s.elapse.i = s.i := rfl
@[simp] theorem State.elapse_pc : s.elapse.pc = s.pc := rfl
@[simp] theorem State.elapse_stack : s.elapse.stack = s.stack := rfl
@[simp] theorem State.elapse_mem : s.elapse.mem = s.mem := rfl
@[simp] theorem State.elapse_fb : s.elapse.fb = s.fb := rfl
@[simp] theorem State.elapse_run : s.elapse.run = s.run := rfl
@[simp] theorem State.elapse_cause : s.elapse.cause = s.cause := rfl
@[simp] theorem State.elapse_info : s.elapse.info = s.info := rfl
@[simp] theorem State.elapse_dtValid : s.elapse.dtValid = s.dtValid := rfl
@[simp] theorem State.elapse_dt : s.elapse.dt = if s.dtValid then tickTimes s.cfg.dtZeroPolicy (Config.ticksBefore s.events) s.dt else s.dt := rfl
@[simp] theorem State.elapse_timerReq : s.elapse.timerReq = s.timerReq := rfl
@[simp] theorem State.elapse_replies : s.elapse.replies = s.replies := rfl
@[simp] theorem State.elapse_display : s.elapse.display = s.display := rfl
@[simp] theorem State.elapse_diag : s.elapse.diag = s.diag := rfl
@[simp] theorem State.elapse_trace : s.elapse.trace = s.trace := rfl
@[simp] theorem State.elapse_started : s.elapse.started = s.started := rfl
@[simp] theorem State.elapse_cfg : s.elapse.cfg = s.cfg := rfl
@[simp] theorem State.elapse_draws : s.elapse.draws = s.draws := rfl
@[simp] theorem State.elapse_events : s.elapse.events = s.events + 1 := rfl

/-! ### serve -/

@[simp] theorem State.serve_v : s.serve.v = s.v := rfl
@[simp] theorem State.serve_i : s.serve.i = s.i := rfl
@[simp] theorem State.serve_pc : s.serve.pc = s.pc := rfl
@[simp] theorem State.serve_stack : s.serve.stack = s.stack := rfl
@[simp] theorem State.serve_mem : s.serve.mem = s.mem := rfl
@[simp] theorem State.serve_fb : s.serve.fb = s.fb := rfl
@[simp] theorem State.serve_run : s.serve.run = s.run := rfl
@[simp] theorem State.serve_cause : s.serve.cause = s.cause := rfl
@[simp] theorem State.serve_info : s.serve.info = s.info := rfl
@[simp] theorem State.serve_dtValid : s.serve.dtValid = s.dtValid := rfl
@[simp] theorem State.serve_dt : s.serve.dt = s.dt := rfl
@[simp] theorem State.serve_timerReq : s.serve.timerReq = false := rfl
@[simp] theorem State.serve_replies : s.serve.replies = s.replies ++ [s.dt] := rfl
@[simp] theorem State.serve_display : s.serve.display = s.display := rfl
@[simp] theorem State.serve_diag : s.serve.diag = s.diag := rfl
@[simp] theorem State.serve_trace : s.serve.trace = s.trace := rfl
@[simp] theorem State.serve_started : s.serve.started = s.started := rfl
@[simp] theorem State.serve_cfg : s.serve.cfg = s.cfg := rfl
@[simp] theorem State.serve_draws : s.serve.draws = s.draws := rfl
@[simp] theorem State.serve_events : s.serve.events = s.events := rfl

/-! ### The names over `stop` -/

@[simp] theorem State.raise_eq (c : Cause) (w : Word) : s.raise c w = s.stop .fatal c w := rfl
@[simp] theorem State.haltUnrecognized_eq (w : Word) : s.haltUnrecognized w = s.stop .halted .unrecognized w := rfl
@[simp] theorem State.violate_eq (a : Nat) :
    s.violate a = s.stop .fatal .addressViolation (BitVec.ofNat 16 a) := rfl

end Sys2Proof.Machine
end

