-- ==== Sys2Proof/Laws/Ops.lean ====
section
/-!
SUPPORT. One lemma per shared operation that says all it can do: registers, memory access, the screen, loops, fetch, and
the ways an instruction completes. Callers cite these and do not unfold the operation.
-/

namespace Sys2Proof.Machine

/-! ## Registers -/

theorem State.reg_setReg (s : State) (x y : Nibble) (b : Byte) :
    (s.setReg x b).reg y = if y = x then b else s.reg y := by
  unfold State.reg
  simp only [State.setReg_v, Vector.getElem_set]
  by_cases h : y = x
  · simp [h]
  · rw [if_neg h, if_neg (fun e => h (BitVec.eq_of_toNat_eq e.symm))]

@[simp] theorem State.reg_setReg_self (s : State) (x : Nibble) (b : Byte) : (s.setReg x b).reg x = b := by
  simp [State.reg_setReg]

/-- Equal register files read alike. -/
theorem State.reg_congr {s t : State} (h : t.v = s.v) (x : Nibble) : t.reg x = s.reg x := by
  unfold State.reg; simp [h]

@[simp] theorem State.reg_setPc (s : State) (a : Word) (x : Nibble) : (s.setPc a).reg x = s.reg x := rfl
@[simp] theorem State.reg_advance (s : State) (x : Nibble) : s.advance.reg x = s.reg x := rfl
@[simp] theorem State.reg_setI (s : State) (a : Word) (x : Nibble) : (s.setI a).reg x = s.reg x := rfl
@[simp] theorem State.reg_putByte (s : State) (a : Nat) (b : Byte) (x : Nibble) : (s.putByte a b).reg x = s.reg x := rfl
@[simp] theorem State.reg_stop (s : State) (r : Run) (c : Cause) (w : Word) (x : Nibble) :
    (s.stop r c w).reg x = s.reg x := rfl
@[simp] theorem State.reg_emit (s : State) (c : DisplayCmd) (x : Nibble) : (s.emit c).reg x = s.reg x := rfl
@[simp] theorem State.reg_flipPixel (s : State) (r : Fin 32) (c : Fin 64) (x : Nibble) :
    (s.flipPixel r c).reg x = s.reg x := rfl
@[simp] theorem State.reg_clearScreen (s : State) (x : Nibble) : s.clearScreen.reg x = s.reg x := rfl
@[simp] theorem State.reg_drawn (s : State) (x : Nibble) : s.drawn.reg x = s.reg x := rfl
@[simp] theorem State.reg_push (s : State) (a : Word) (x : Nibble) : (s.push a).reg x = s.reg x := rfl
@[simp] theorem State.reg_popTo (s : State) (l : List Word) (x : Nibble) : (s.popTo l).reg x = s.reg x := rfl
@[simp] theorem State.reg_emitDiag (s : State) (w : Word) (x : Nibble) : (s.emitDiag w).reg x = s.reg x := rfl
@[simp] theorem State.reg_emitTrace (s : State) (w : Word) (x : Nibble) : (s.emitTrace w).reg x = s.reg x := rfl
@[simp] theorem State.reg_elapse (s : State) (x : Nibble) : s.elapse.reg x = s.reg x := rfl
@[simp] theorem State.reg_start (s : State) (x : Nibble) : s.start.reg x = s.reg x := rfl
@[simp] theorem State.reg_serve (s : State) (x : Nibble) : s.serve.reg x = s.reg x := rfl

/-! ## Memory -/

/-- Equal memories read alike. -/
theorem State.byteAt_congr {s t : State} (h : t.mem = s.mem) (a : Nat) : t.byteAt a = s.byteAt a := by
  unfold State.byteAt; rw [h]

@[simp] theorem State.byteAt_putByte (s : State) (a a' : Nat) (b : Byte) :
    (s.putByte a b).byteAt a' = if a' = a then b else s.byteAt a' := Memory.get_put _ _ _ _

/-- `MemRead` inside memory. -/
theorem State.memRead_inside (s : State) {a : Nat} (h : a < Config.memSize) : s.memRead a = .ok (s.byteAt a) :=
  if_pos h

/-- `MemRead` outside memory. -/
theorem State.memRead_outside (s : State) {a : Nat} (h : ¬ a < Config.memSize) : s.memRead a = .error (s.violate a) :=
  if_neg h

/-- `MemWrite` inside memory. -/
theorem State.memWrite_inside (s : State) {a : Nat} (b : Byte) (h : a < Config.memSize) :
    s.memWrite a b = .ok (s.putByte a b) := if_pos h

/-- `MemWrite` outside memory. -/
theorem State.memWrite_outside (s : State) {a : Nat} (b : Byte) (h : ¬ a < Config.memSize) :
    s.memWrite a b = .error (s.violate a) := if_neg h

/-! ## Screen -/

theorem Screen.get_put (fb : Screen) (r r' : Fin 32) (c c' : Fin 64) (b : Bool) :
    (Screen.put fb r c b)[r'][c'] = if r' = r ∧ c' = c then b else fb[r'][c'] := by
  simp only [Screen.put, Fin.getElem_fin, Vector.getElem_set]
  by_cases hr : r' = r
  · subst hr
    by_cases hc : c' = c
    · subst hc; simp
    · simp [hc, Fin.val_ne_of_ne (Ne.symm hc)]
  · simp [hr, Fin.val_ne_of_ne (Ne.symm hr)]

/-- `flipPixel` inverts its own pixel and leaves every other. -/
theorem State.pixel_flipPixel (s : State) (r r' : Fin 32) (c c' : Fin 64) :
    (s.flipPixel r c).pixel r' c' = if r' = r ∧ c' = c then !s.pixel r' c' else s.pixel r' c' := by
  unfold State.pixel
  rw [State.flipPixel_fb, Screen.get_put]
  split_ifs with h
  · rw [h.1, h.2]; rfl
  · rfl

/-- Equal screens show alike. -/
theorem State.pixel_congr {s t : State} (h : t.fb = s.fb) (r : Fin 32) (c : Fin 64) : t.pixel r c = s.pixel r c := by
  unfold State.pixel; rw [h]

theorem Screen.ext {fb fb' : Screen} (h : ∀ (r : Fin 32) (c : Fin 64), fb[r][c] = fb'[r][c]) : fb = fb' :=
  Vector.ext fun i hi => Vector.ext fun j hj => h ⟨i, hi⟩ ⟨j, hj⟩

@[simp] theorem Screen.get_blank (r : Fin 32) (c : Fin 64) : Screen.blank[r][c] = false := by
  simp [Screen.blank]

/-! ## Loops -/

@[simp] theorem forEach_nil (body : Nat → State → Except State State) (s : State) : forEach body [] s = .ok s := rfl

theorem forEach_cons (body : Nat → State → Except State State) (k : Nat) (ks : List Nat) (s : State) :
    forEach body (k :: ks) s = match body k s with
      | .ok s' => forEach body ks s'
      | .error e => .error e := rfl

/-- A loop over two lists is the one loop after the other. -/
theorem forEach_append (body : Nat → State → Except State State) (ks ks' : List Nat) (s : State) :
    forEach body (ks ++ ks') s = match forEach body ks s with
      | .ok s' => forEach body ks' s'
      | .error e => .error e := by
  induction ks generalizing s with
  | nil => rfl
  | cons k ks ih =>
    rw [List.cons_append, forEach_cons, forEach_cons]
    cases body k s with
    | ok s' => exact ih s'
    | error e => rfl

/-- The state of either end of a computation that may raise. -/
def endState : Except State State → State
  | .ok s => s
  | .error e => e

/-- THE INDUCTION OF EVERY LOOP, once: a relation that is reflexive, transitive and holds across each turn holds from the
start to the end, whether the loop ends or is abandoned. -/
theorem forEach_rel {R : State → State → Prop} (hrefl : ∀ s, R s s) (htrans : ∀ {s t u}, R s t → R t u → R s u)
    {body : Nat → State → Except State State} (hbody : ∀ k s, R s (endState (body k s))) (ks : List Nat) (s : State) :
    R s (endState (forEach body ks s)) := by
  induction ks generalizing s with
  | nil => exact hrefl s
  | cons k ks ih =>
    have hk := hbody k s
    rw [forEach_cons]
    cases h : body k s with
    | ok s' => rw [h] at hk; exact htrans hk (ih s')
    | error e => rw [h] at hk; exact hk

/-- EVERYTHING A DATA LOOP CAN DO (R63, R201): its `k`-th turn accesses `I + k`, keeps `I`, and raises where that lies
outside memory. It ends with every access inside, or is abandoned at the first address outside. -/
theorem forEach_data {R : State → State → Prop} (hrefl : ∀ s, R s s) (htrans : ∀ {s t u}, R s t → R t u → R s u)
    {body : Nat → State → Except State State}
    (hok : ∀ k s, s.dataAddr k < Config.memSize → ∃ t, body k s = .ok t ∧ t.i = s.i ∧ R s t)
    (herr : ∀ k s, ¬ s.dataAddr k < Config.memSize → body k s = .error (s.violate (s.dataAddr k))) (n : Nat) (s : State) :
    ∃ t, t.i = s.i ∧ R s t ∧
      ((n = 0 ∨ s.i.toNat + n ≤ Config.memSize) ∧ forEach body (List.range n) s = .ok t ∨
       Config.memSize < s.i.toNat + n ∧
         forEach body (List.range n) s = .error (t.violate (max s.i.toNat Config.memSize))) := by
  induction n with
  | zero => exact ⟨s, rfl, hrefl s, .inl ⟨.inl rfl, rfl⟩⟩
  | succ n ih =>
    obtain ⟨t, hi, hr, ⟨hn, hf⟩ | ⟨hn, hf⟩⟩ := ih
    · rw [List.range_succ, forEach_append, hf]
      simp only [forEach_cons, forEach_nil]
      by_cases h : t.dataAddr n < Config.memSize
      · obtain ⟨u, hu, hi', hr'⟩ := hok n t h
        refine ⟨u, hi'.trans hi, htrans hr hr', .inl ⟨.inr ?_, by rw [hu]⟩⟩
        rw [State.dataAddr, hi] at h; omega
      · rw [herr n t h]
        rw [State.dataAddr, hi] at h ⊢
        have e : s.i.toNat + n = max s.i.toNat Config.memSize := by omega
        exact ⟨t, hi, hr, .inr ⟨by omega, by rw [e]⟩⟩
    · rw [List.range_succ, forEach_append, hf]
      exact ⟨t, hi, hr, .inr ⟨by omega, rfl⟩⟩

/-! ## Fetch -/

/-- A fetch inside memory: the byte at `PC` is the high byte (R51, R91). -/
theorem State.fetch_inside (s : State) (h : s.pc.toNat + 1 < Config.memSize) :
    s.fetch = .ok (wordOfBytes (s.byteAt s.pc.toNat) (s.byteAt (s.pc.toNat + 1))) := by
  unfold State.fetch
  rw [s.memRead_inside (Nat.lt_of_succ_lt h), s.memRead_inside h]

/-- A fetch whose first byte lies outside memory. -/
theorem State.fetch_first_outside (s : State) (h : ¬ s.pc.toNat < Config.memSize) :
    s.fetch = .error (s.violate s.pc.toNat) := by
  unfold State.fetch
  rw [s.memRead_outside h]

/-- A fetch whose second byte alone lies outside memory. -/
theorem State.fetch_second_outside (s : State) (h : s.pc.toNat < Config.memSize)
    (h' : ¬ s.pc.toNat + 1 < Config.memSize) : s.fetch = .error (s.violate (s.pc.toNat + 1)) := by
  unfold State.fetch
  rw [s.memRead_inside h, s.memRead_outside h']

/-! ## How an instruction completes -/

theorem done_eq (s : State) : done s = .next s.advance := rfl

theorem finish_ok (s : State) : finish (.ok s) = .next s.advance := rfl

theorem finish_error (e : State) : finish (.error e) = .next e := rfl

/-- A computation that may raise completes either way: advanced, or in the state the raise left. -/
theorem finish_eq (r : Except State State) : finish r = .next (match r with
    | .ok s => s.advance
    | .error e => e) := by
  cases r <;> rfl

/-- A skip ends at `PC + 4` or `PC + 2` and changes nothing else. -/
theorem skipIf_eq (cond : Bool) (s : State) :
    skipIf cond s = .next (s.setPc (if cond then s.pc + 2 + 2 else s.pc + 2)) := by
  cases cond <;> rfl

theorem jumpTo_eq (a : Word) (s : State) : jumpTo a s = .next (s.setPc a) := rfl

/-- A register write of the arithmetic family. -/
theorem writeReg_eq (x : Nibble) (b : Byte) (s : State) : writeReg x b s = .next (s.setReg x b).advance := rfl

/-- A stub. -/
theorem stub_eq (w : Word) (s : State) : stub w s = .next (s.emitDiag w).advance := rfl

/-! ## The ROM load -/

/-- Before the run a load writes the image (R233). -/
theorem State.load_before {s : State} (hr : s.run = .running) (hs : s.started = false) (rom : List Byte) :
    s.load rom = loadFrom Config.loadBase rom s := if_pos (by simp [State.loadOpen, hr, hs])

/-- Once the run has begun or ended a load changes nothing (R206, R211). -/
theorem State.load_after {s : State} (h : s.run ≠ .running ∨ s.started = true) (rom : List Byte) : s.load rom = s :=
  if_neg (by rcases h with h | h <;> simp [State.loadOpen, h])

/-- One byte of an image, inside memory. -/
theorem loadFrom_inside {a : Nat} (h : a < Config.memSize) (b : Byte) (bs : List Byte) (s : State) :
    loadFrom a (b :: bs) s = loadFrom (a + 1) bs (s.putByte a b) := by
  rw [loadFrom, s.memWrite_inside b h]

/-- One byte of an image, outside memory: the load is abandoned. -/
theorem loadFrom_outside {a : Nat} (h : ¬ a < Config.memSize) (b : Byte) (bs : List Byte) (s : State) :
    loadFrom a (b :: bs) s = s.violate a := by
  rw [loadFrom, s.memWrite_outside b h]

/-! ## Step -/

/-- EVERYTHING A STEP CAN DO: where it answers a next state the run was on, and it served a request, ended the run at the
fetch, or ran the decoded instruction. -/
theorem step_next_cases {s t : State} (h : step s = .next t) :
    s.run = .running ∧
      ((s.timerReq = true ∧ t = s.elapse.serve) ∨
       (s.timerReq = false ∧ s.elapse.start.fetch = .error t) ∨
       (s.timerReq = false ∧ ∃ w, s.elapse.start.fetch = .ok w ∧
         exec (decodeWord w) (s.elapse.start.emitTrace w) = .next t)) := by
  unfold step at h
  split at h
  · cases h
  · cases h
  · next hr =>
    refine ⟨hr, ?_⟩
    unfold agentStep at h
    rw [State.elapse_timerReq] at h
    split at h
    · next hq => cases h; exact .inl ⟨hq, rfl⟩
    · next hq =>
      have hq' : s.timerReq = false := by simpa using hq
      unfold engineStep at h
      split at h
      · next e he => cases h; exact .inr (.inl ⟨hq', he⟩)
      · next w hw => exact .inr (.inr ⟨hq', w, hw, h⟩)

end Sys2Proof.Machine
end

