-- ==== Sys2Proof/Laws/PerInstr.lean ====
section
/-!
SUPPORT. A family of lemmas over every instruction as syntax: its encoding carries the literal digits of its row in
spec/opcode_table.json (30_encoding.md R75), mask and match as the table gives them.
-/

namespace Sys2Proof.Laws.RowBits

/-- The row's mask, from the table. -/
def mask : Instr → Word
  | .cls => 0xFFFF
  | .ret => 0xFFFF
  | .jp _ => 0xF000
  | .call _ => 0xF000
  | .seImm _ _ => 0xF000
  | .sneImm _ _ => 0xF000
  | .seReg _ _ => 0xF00F
  | .ldImm _ _ => 0xF000
  | .addImm _ _ => 0xF000
  | .ldReg _ _ => 0xF00F
  | .orReg _ _ => 0xF00F
  | .andReg _ _ => 0xF00F
  | .xorReg _ _ => 0xF00F
  | .addReg _ _ => 0xF00F
  | .subReg _ _ => 0xF00F
  | .shrReg _ _ => 0xF00F
  | .subnReg _ _ => 0xF00F
  | .shlReg _ _ => 0xF00F
  | .sneReg _ _ => 0xF00F
  | .ldI _ => 0xF000
  | .jpb _ => 0xF000
  | .rnd _ _ => 0xF000
  | .drw _ _ _ => 0xF000
  | .addI _ => 0xF0FF
  | .storeRegs _ => 0xF0FF
  | .loadRegs _ => 0xF0FF
  | .nopGetDt _ => 0xF0FF
  | .nopKeyWait _ => 0xF0FF
  | .nopSkp _ => 0xF0FF
  | .nopSknp _ => 0xF0FF
  | .nopBcd _ => 0xF0FF
  | .nopFont _ => 0xF0FF
  | .nopSetSt _ => 0xF0FF
  | .haltUnrec _ => 0x0000

/-- The row's match, from the table. -/
def pat : Instr → Word
  | .cls => 0x00E0
  | .ret => 0x00EE
  | .jp _ => 0x1000
  | .call _ => 0x2000
  | .seImm _ _ => 0x3000
  | .sneImm _ _ => 0x4000
  | .seReg _ _ => 0x5000
  | .ldImm _ _ => 0x6000
  | .addImm _ _ => 0x7000
  | .ldReg _ _ => 0x8000
  | .orReg _ _ => 0x8001
  | .andReg _ _ => 0x8002
  | .xorReg _ _ => 0x8003
  | .addReg _ _ => 0x8004
  | .subReg _ _ => 0x8005
  | .shrReg _ _ => 0x8006
  | .subnReg _ _ => 0x8007
  | .shlReg _ _ => 0x800E
  | .sneReg _ _ => 0x9000
  | .ldI _ => 0xA000
  | .jpb _ => 0xB000
  | .rnd _ _ => 0xC000
  | .drw _ _ _ => 0xD000
  | .addI _ => 0xF01E
  | .storeRegs _ => 0xF055
  | .loadRegs _ => 0xF065
  | .nopGetDt _ => 0xF007
  | .nopKeyWait _ => 0xF00A
  | .nopSkp _ => 0xE09E
  | .nopSknp _ => 0xE0A1
  | .nopBcd _ => 0xF033
  | .nopFont _ => 0xF029
  | .nopSetSt _ => 0xF018
  | .haltUnrec _ => 0x0000

/-- The encoding of the instruction matches its row. -/
def Statement (i : Instr) : Prop := encode i &&& mask i = pat i

theorem cls : Statement .cls := rfl
theorem ret : Statement .ret := rfl
theorem jp (nnn : Imm12) : Statement (.jp nnn) := packNNN_and _ _
theorem call (nnn : Imm12) : Statement (.call nnn) := packNNN_and _ _
theorem seImm (x : Nibble) (kk : Byte) : Statement (.seImm x kk) := packXKK_and_op _ _ _
theorem sneImm (x : Nibble) (kk : Byte) : Statement (.sneImm x kk) := packXKK_and_op _ _ _
theorem seReg (x : Nibble) (y : Nibble) : Statement (.seReg x y) := packXYN_and _ _ _ _
theorem ldImm (x : Nibble) (kk : Byte) : Statement (.ldImm x kk) := packXKK_and_op _ _ _
theorem addImm (x : Nibble) (kk : Byte) : Statement (.addImm x kk) := packXKK_and_op _ _ _
theorem ldReg (x : Nibble) (y : Nibble) : Statement (.ldReg x y) := packXYN_and _ _ _ _
theorem orReg (x : Nibble) (y : Nibble) : Statement (.orReg x y) := packXYN_and _ _ _ _
theorem andReg (x : Nibble) (y : Nibble) : Statement (.andReg x y) := packXYN_and _ _ _ _
theorem xorReg (x : Nibble) (y : Nibble) : Statement (.xorReg x y) := packXYN_and _ _ _ _
theorem addReg (x : Nibble) (y : Nibble) : Statement (.addReg x y) := packXYN_and _ _ _ _
theorem subReg (x : Nibble) (y : Nibble) : Statement (.subReg x y) := packXYN_and _ _ _ _
theorem shrReg (x : Nibble) (y : Nibble) : Statement (.shrReg x y) := packXYN_and _ _ _ _
theorem subnReg (x : Nibble) (y : Nibble) : Statement (.subnReg x y) := packXYN_and _ _ _ _
theorem shlReg (x : Nibble) (y : Nibble) : Statement (.shlReg x y) := packXYN_and _ _ _ _
theorem sneReg (x : Nibble) (y : Nibble) : Statement (.sneReg x y) := packXYN_and _ _ _ _
theorem ldI (nnn : Imm12) : Statement (.ldI nnn) := packNNN_and _ _
theorem jpb (nnn : Imm12) : Statement (.jpb nnn) := packNNN_and _ _
theorem rnd (x : Nibble) (kk : Byte) : Statement (.rnd x kk) := packXKK_and_op _ _ _
theorem drw (x : Nibble) (y : Nibble) (n : Nibble) : Statement (.drw x y n) := packXYN_and_op _ _ _ _
theorem addI (x : Nibble) : Statement (.addI x) := packXKK_and_low _ _ _
theorem storeRegs (x : Nibble) : Statement (.storeRegs x) := packXKK_and_low _ _ _
theorem loadRegs (x : Nibble) : Statement (.loadRegs x) := packXKK_and_low _ _ _
theorem nopGetDt (x : Nibble) : Statement (.nopGetDt x) := packXKK_and_low _ _ _
theorem nopKeyWait (x : Nibble) : Statement (.nopKeyWait x) := packXKK_and_low _ _ _
theorem nopSkp (x : Nibble) : Statement (.nopSkp x) := packXKK_and_low _ _ _
theorem nopSknp (x : Nibble) : Statement (.nopSknp x) := packXKK_and_low _ _ _
theorem nopBcd (x : Nibble) : Statement (.nopBcd x) := packXKK_and_low _ _ _
theorem nopFont (x : Nibble) : Statement (.nopFont x) := packXKK_and_low _ _ _
theorem nopSetSt (x : Nibble) : Statement (.nopSetSt x) := packXKK_and_low _ _ _
theorem haltUnrec (w : Word) : Statement (.haltUnrec w) := BitVec.and_zero

end Sys2Proof.Laws.RowBits
end

