-- ==== Sys2Proof/Laws/Step.lean ====
section
/-!
SUPPORT. The induction over what an instruction and a step can do, packaged once: a relation between states that is
reflexive, transitive and respected by each named update is respected by every instruction and by every step.
-/

namespace Sys2Proof.Machine

/-- A relation that each update an INSTRUCTION is made of respects. -/
structure Respects (R : State → State → Prop) : Prop where
  refl : ∀ s, R s s
  trans : ∀ {s t u}, R s t → R t u → R s u
  setReg : ∀ (s : State) x b, R s (s.setReg x b)
  setI : ∀ (s : State) a, R s (s.setI a)
  setPc : ∀ (s : State) a, R s (s.setPc a)
  push : ∀ (s : State) a, s.stackFull = false → R s (s.push a)
  popTo : ∀ (s : State) a l, s.stack = a :: l → R s (s.popTo l)
  fatal : ∀ (s : State) c w, c = .addressViolation ∨ c = .stackUnderflow ∨ c = .stackOverflow → R s (s.stop .fatal c w)
  halt : ∀ (s : State) w, R s (s.stop .halted .unrecognized w)
  putByte : ∀ (s : State) a b, a < Config.memSize → R s (s.putByte a b)
  flipPixel : ∀ (s : State) r c, R s (s.flipPixel r c)
  clearScreen : ∀ s : State, R s s.clearScreen
  present : ∀ s : State, R s (s.emit .present)
  emitDiag : ∀ (s : State) w, R s (s.emitDiag w)
  drawn : ∀ s : State, R s s.drawn

variable {R : State → State → Prop}

/-- A computation that may raise, completed. -/
theorem Respects.finish (h : Respects R) {s t : State} {r : Except State State} (hr : R s (endState r))
    (ht : Machine.finish r = .next t) : R s t := by
  rw [finish_eq] at ht
  cases r with
  | ok u => cases ht; exact h.trans hr (h.setPc _ _)
  | error e => cases ht; exact hr

/-- The bits of a sprite row. -/
theorem Respects.drawBits (h : Respects R) (vx vy b : Byte) (row : Nat) (s : State) : R s (drawBits vx vy b row s) := by
  unfold Machine.drawBits
  generalize List.range 8 = cols
  induction cols generalizing s with
  | nil => exact h.refl s
  | cons c cs ih =>
    refine h.trans ?_ (ih _)
    unfold drawBit
    split_ifs
    · exact h.flipPixel _ _ _
    · exact h.refl s

/-- A raised address violation. -/
theorem Respects.violate (h : Respects R) (s : State) (a : Nat) : R s (s.violate a) := h.fatal _ _ _ (.inl rfl)

/-- One transfer of a block store. -/
theorem Respects.storeOne (h : Respects R) (k : Nat) (s : State) : R s (endState (storeOne k s)) := by
  unfold Machine.storeOne State.memWrite
  split_ifs with hk
  · exact h.putByte _ _ _ hk
  · exact h.violate _ _

/-- One transfer of a block load. -/
theorem Respects.loadOne (h : Respects R) (k : Nat) (s : State) : R s (endState (loadOne k s)) := by
  unfold Machine.loadOne State.memRead
  split_ifs
  · exact h.setReg _ _ _
  · exact h.violate _ _

/-- One row of a sprite. -/
theorem Respects.drawRow (h : Respects R) (vx vy : Byte) (row : Nat) (s : State) :
    R s (endState (drawRow vx vy row s)) := by
  unfold Machine.drawRow State.memRead
  split_ifs
  · exact h.drawBits _ _ _ _ _
  · exact h.violate _ _

/-- A loop of such turns. -/
theorem Respects.forEach (h : Respects R) {body : Nat → State → Except State State}
    (hbody : ∀ k s, R s (endState (body k s))) (ks : List Nat) (s : State) :
    R s (endState (Machine.forEach body ks s)) := forEach_rel h.refl h.trans hbody ks s

/-- The frame presented, unless a raise came before. -/
theorem Respects.presentFrame (h : Respects R) {s : State} {r : Except State State} (hr : R s (endState r)) :
    R s (endState (presentFrame r)) := by
  cases r with
  | ok u => exact h.trans hr (h.present _)
  | error e => exact hr

/-- A skip, taken or not. -/
theorem Respects.skipIf (h : Respects R) {cond : Bool} {s t : State} (ht : skipIf cond s = .next t) : R s t := by
  rw [skipIf_eq] at ht
  cases ht
  exact h.setPc _ _

/-- A relation every update respects is respected by every instruction. -/
theorem Respects.exec (h : Respects R) {i : Instr} {s t : State} (ht : exec i s = .next t) : R s t := by
  cases i
  case cls => cases ht; exact h.trans (h.clearScreen _) (h.setPc _ _)
  case ret =>
    simp only [Machine.exec, execRet] at ht
    split at ht
    · cases ht; exact h.fatal _ _ _ (.inr (.inl rfl))
    · next a l hs => cases ht; exact h.trans (h.popTo _ a l hs) (h.setPc _ _)
  case call =>
    simp only [Machine.exec, execCall] at ht
    split at ht
    · cases ht; exact h.fatal _ _ _ (.inr (.inr rfl))
    · next hf => cases ht; exact h.trans (h.push _ _ (by simpa using hf)) (h.setPc _ _)
  case seImm | sneImm | seReg | sneReg => exact h.skipIf ht
  case rnd => cases ht; exact h.trans (h.trans (h.drawn _) (h.setReg _ _ _)) (h.setPc _ _)
  case drw => exact h.finish (h.presentFrame (h.forEach (h.drawRow _ _) _ _)) ht
  case storeRegs => exact h.finish (h.forEach h.storeOne _ _) ht
  case loadRegs => exact h.finish (h.forEach h.loadOne _ _) ht
  case haltUnrec => cases ht; exact h.halt _ _
  case jp | jpb => cases ht; exact h.setPc _ _
  case ldI | addI => cases ht; exact h.trans (h.setI _ _) (h.setPc _ _)
  case nopGetDt | nopKeyWait | nopSkp | nopSknp | nopBcd | nopFont | nopSetSt =>
    cases ht; exact h.trans (h.emitDiag _ _) (h.setPc _ _)
  all_goals cases ht; exact h.trans (h.setReg _ _ _) (h.setPc _ _)

/-- A fetch that fails leaves an address violation, at an address outside memory that `INFO` can hold (R201). -/
theorem State.fetch_error {s t : State} (h : s.fetch = .error t) :
    ∃ a, Config.memSize ≤ a ∧ a < 2 ^ 16 ∧ t = s.violate a := by
  have hpc := s.pc.isLt
  by_cases h1 : s.pc.toNat < Config.memSize
  · by_cases h2 : s.pc.toNat + 1 < Config.memSize
    · rw [s.fetch_inside h2] at h; cases h
    · rw [s.fetch_second_outside h1 h2] at h; cases h; exact ⟨_, by omega, by simp only [Config.memSize] at h1; omega, rfl⟩
  · rw [s.fetch_first_outside h1] at h; cases h; exact ⟨_, by omega, hpc, rfl⟩

/-- A fetch that succeeds read two bytes inside memory. -/
theorem State.fetch_ok {s : State} {w : Word} (h : s.fetch = .ok w) :
    s.pc.toNat + 1 < Config.memSize ∧ w = wordOfBytes (s.byteAt s.pc.toNat) (s.byteAt (s.pc.toNat + 1)) := by
  by_cases h1 : s.pc.toNat < Config.memSize
  · by_cases h2 : s.pc.toNat + 1 < Config.memSize
    · rw [s.fetch_inside h2] at h; cases h; exact ⟨h2, rfl⟩
    · rw [s.fetch_second_outside h1 h2] at h; cases h
  · rw [s.fetch_first_outside h1] at h; cases h

/-- A relation every update respects, those of the step itself among them, is respected by every step. -/
theorem Respects.step (h : Respects R) (helapse : ∀ s : State, R s s.elapse) (hserve : ∀ s : State, R s s.serve)
    (hstart : ∀ s : State, R s s.start) (htrace : ∀ (s : State) w, R s (s.emitTrace w)) {s t : State} (ht : step s = .next t) : R s t := by
  obtain ⟨-, hc⟩ := step_next_cases ht
  rcases hc with ⟨-, rfl⟩ | ⟨-, hf⟩ | ⟨-, w, -, he⟩
  · exact h.trans (helapse _) (hserve _)
  · obtain ⟨a, -, -, rfl⟩ := State.fetch_error hf
    exact h.trans (h.trans (helapse _) (hstart _)) (h.violate _ _)
  · exact h.trans (h.trans (h.trans (helapse _) (hstart _)) (htrace _ _)) (h.exec he)

end Sys2Proof.Machine
end

