-- ==== Sys2Proof/Tests/Slice0.lean ====
section
/-!
SUPPORT. Tests of the model: the smoke test of WellFormed, every constructor's decoding from a word written out from the
patterns of 30_encoding.md R75, single steps whose expected values are the vectors of 95_test_vectors.md, and, for each
obligation with hypotheses, a witness that meets them.
-/

namespace Sys2Proof.Tests

open Sys2Proof Sys2Proof.Machine Sys2Proof.Safety

/-- What `f` sees of the next state, if there is one. -/
def after {α : Type} (o : Host.Outcome State Fault Refusal) (f : State → α) : Option α :=
  match o with
  | .next s => some (f s)
  | .fault _ => none
  | .refused _ => none

/-- `exec(w)` of 95_test_vectors.md: the word placed at `PC`, one step. -/
def run {α : Type} (s : State) (w : Nat) (f : State → α) : Option α := after (step (s.withFetchWord 16 w)) f

/-- The reset state with `V0 = a` and `V1 = b`. -/
def v01 (a b : Byte) : State := (State.reset.setReg 0 a).setReg 1 b

/-- The reset state with `SP = n`, every entry 0x0200. -/
def deep (n : Nat) : State := State.reset.popTo (List.replicate n 0x200)

/-- A sprite of two rows `b c` at 0x300, to be drawn at column `V0 = x`, row `V1 = y`. -/
def sprite (x y b c : Byte) : State := (((v01 x y).setI 0x300).putByte 0x300 b).putByte 0x301 c

/-- A state about to execute a call. -/
def calling : State := State.reset.withFetchWord 16 0x2300

/-! ## Well-formed terms -/

theorem test_wf_refuses_claimed_word : (Instr.haltUnrec 0x1234).wf = false := by decide
theorem test_wf_refuses_stub_word : (Instr.haltUnrec 0xF307).wf = false := by decide
theorem test_wf_takes_unclaimed_word : (Instr.haltUnrec 0xF315).wf = true := by decide

/-! ## Decoding: every constructor, bits `op x y n` as R71 and R75 place them -/

theorem test_decode_display :
    decodeWord 0b0000000011100000 = .cls ∧ decodeWord 0b1101000100101111 = .drw 1 2 15 := by decide

theorem test_decode_control :
    decodeWord 0b0000000011101110 = .ret ∧ decodeWord 0b0001101010111100 = .jp 0xABC ∧
    decodeWord 0b0010001100000000 = .call 0x300 ∧ decodeWord 0b1011010000000000 = .jpb 0x400 ∧
    decodeWord 0b0011000100000101 = .seImm 1 0x05 ∧ decodeWord 0b0100001000000110 = .sneImm 2 0x06 ∧
    decodeWord 0b0101000100100000 = .seReg 1 2 ∧ decodeWord 0b1001101010110000 = .sneReg 10 11 := by decide

theorem test_decode_alu :
    decodeWord 0b0110000000001010 = .ldImm 0 0x0A ∧ decodeWord 0b0111000000000101 = .addImm 0 0x05 ∧
    decodeWord 0b1000000100100000 = .ldReg 1 2 ∧ decodeWord 0b1000000100100001 = .orReg 1 2 ∧
    decodeWord 0b1000000100100010 = .andReg 1 2 ∧ decodeWord 0b1000000100100011 = .xorReg 1 2 ∧
    decodeWord 0b1000000100100100 = .addReg 1 2 ∧ decodeWord 0b1000000100100101 = .subReg 1 2 ∧
    decodeWord 0b1000000100100110 = .shrReg 1 2 ∧ decodeWord 0b1000000100100111 = .subnReg 1 2 ∧
    decodeWord 0b1000000100101110 = .shlReg 1 2 ∧ decodeWord 0b1100000000001111 = .rnd 0 0x0F := by decide

theorem test_decode_index :
    decodeWord 0b1010001100000000 = .ldI 0x300 ∧ decodeWord 0b1111001100011110 = .addI 3 ∧
    decodeWord 0b1111001001010101 = .storeRegs 2 ∧ decodeWord 0b1111111101100101 = .loadRegs 15 := by decide

theorem test_decode_stubs :
    decodeWord 0b1111001100000111 = .nopGetDt 3 ∧ decodeWord 0b1111000000001010 = .nopKeyWait 0 ∧
    decodeWord 0b1110000110011110 = .nopSkp 1 ∧ decodeWord 0b1110000110100001 = .nopSknp 1 ∧
    decodeWord 0b1111000000110011 = .nopBcd 0 ∧ decodeWord 0b1111000000101001 = .nopFont 0 ∧
    decodeWord 0b1111000000011000 = .nopSetSt 0 := by decide

/-- The unrecognized rows of section 2.1. -/
theorem test_decode_unrecognized :
    [0x00E1, 0x0000, 0x01E0, 0x5121, 0x8128, 0x812F, 0x9AB5, 0xE19F, 0xF315, 0xF375].all
      (fun w => decodeWord w == .haltUnrec w) = true := by decide

theorem test_decode_bytes : decode [0xD1, 0x2F, 0x55] = .ok (.drw 1 2 15, [0x55]) := by decide
theorem test_decode_truncated : decode [0xD1] = .error .truncated := by decide
theorem test_table_word : decodeTableWord 16 0x8126 = some (.shrReg 1 2) ∧ decodeTableWord 0 0 = some (.haltUnrec 0) := by
  decide

/-! ## Fetch and control flow (sections 2.2, 2.3, 2.9) -/

theorem test_fetch_high_byte_first : run State.reset 0x6A42 (fun s => (s.reg 0xA, s.pc)) = some (0x42, 0x202) := by decide
theorem test_odd_pc : run (State.reset.setPc 0x203) 0x6007 (fun s => (s.reg 0, s.pc)) = some (0x07, 0x205) := by decide
theorem test_fetch_at_end : after (step (State.reset.setPc 0xFFF)) (fun s => (s.run, s.cause, s.info, s.pc)) =
    some (.fatal, .addressViolation, 0x1000, 0xFFF) := by decide
theorem test_fetch_past_end : after (step (State.reset.setPc 0x1002)) (fun s => (s.run, s.cause, s.info, s.pc)) =
    some (.fatal, .addressViolation, 0x1002, 0x1002) := by decide
theorem test_jp : run State.reset 0x1ABC (fun s => s.pc) = some 0xABC := by decide
theorem test_jpb_no_offset : run (v01 0x10 0) 0xB400 (fun s => (s.pc, s.reg 0)) = some (0x400, 0x10) := by decide
theorem test_call : run State.reset 0x2300 (fun s => (s.stk 0, s.sp, s.pc)) = some (some 0x200, 1, 0x300) := by decide
theorem test_call_full : run (deep 16) 0x2300 (fun s => (s.run, s.cause, s.info, s.pc, s.sp)) =
    some (.fatal, .stackOverflow, 0x200, 0x200, 16) := by decide
/-- `STK = [0x0200, 0x0300]`, top first here. -/
theorem test_ret : run ((State.reset.setPc 0x400).popTo [0x300, 0x200]) 0x00EE (fun s => (s.sp, s.pc, s.stk 0)) =
    some (1, 0x300, some 0x200) := by decide
theorem test_ret_empty : run State.reset 0x00EE (fun s => (s.run, s.cause, s.info, s.pc)) =
    some (.fatal, .stackUnderflow, 0, 0x200) := by decide
theorem test_se_imm : run (v01 0 5) 0x3105 (fun s => s.pc) = some 0x204 ∧ run (v01 0 5) 0x3106 (fun s => s.pc) = some 0x202 := by
  decide
theorem test_sne_imm : run (v01 0 5) 0x4106 (fun s => s.pc) = some 0x204 ∧ run (v01 0 5) 0x4105 (fun s => s.pc) = some 0x202 := by
  decide
theorem test_se_reg : run (v01 0x7F 0x7F) 0x5010 (fun s => s.pc) = some 0x204 ∧
    run (v01 0x7F 0x80) 0x5010 (fun s => s.pc) = some 0x202 := by decide
theorem test_sne_reg : run (v01 0x7F 0x80) 0x9010 (fun s => s.pc) = some 0x204 ∧
    run (v01 0x7F 0x7F) 0x9010 (fun s => s.pc) = some 0x202 := by decide

/-! ## Arithmetic (section 2.4) -/

theorem test_ld_imm : run State.reset 0x6FFF (fun s => s.reg 15) = some 0xFF := by decide
theorem test_add_imm_wraps : run (State.reset.setReg 3 0xFF) 0x7301 (fun s => (s.reg 3, s.reg 15)) = some (0, 0) := by decide

/-- One column of the register table: `V0` after 0x801n for `n` = 0 to 7 and E. -/
def column (s : State) : List (Option Byte) :=
  [0x8010, 0x8011, 0x8012, 0x8013, 0x8014, 0x8015, 0x8016, 0x8017, 0x801E].map fun w => run s w (fun t => t.reg 0)

theorem test_alu_F0_3C : column (v01 0xF0 0x3C) =
    [0x3C, 0xFC, 0x30, 0xCC, 0x2C, 0xB4, 0x78, 0x4C, 0xE0].map some := by decide
theorem test_alu_05_0A : column (v01 0x05 0x0A) =
    [0x0A, 0x0F, 0x00, 0x0F, 0x0F, 0xFB, 0x02, 0x05, 0x0A].map some := by decide
/-- The two shift rows under `SHIFT_SRC = Y`. -/
theorem test_shift_src_y :
    run (State.boot { Config.defaults with shiftSrc := .y } [0x60, 0xF0]) 0x8016 (fun s => s.reg 0) = some 0 ∧
    (column { v01 0xF0 0x3C with cfg := { Config.defaults with shiftSrc := .y } }).drop 6 =
      [some 0x1E, some 0x4C, some 0x78] := by decide
theorem test_add_vf_is_no_flag : run ((v01 0xFF 0x02).setReg 15 0x77) 0x8014 (fun s => (s.reg 0, s.reg 15)) =
    some (0x01, 0x77) := by decide
theorem test_rnd_masked : run State.reset 0xC200 (fun s => s.draws) = some 1 := by decide

/-! ## Address register and block transfers (section 2.5) -/

theorem test_ld_i : run (State.reset.setI 0xFFFF) 0xA300 (fun s => s.i) = some 0x300 := by decide
theorem test_add_i_wraps_at_16 : run ((State.reset.setI 0xFFFF).setReg 0 1) 0xF01E (fun s => s.i) = some 0 ∧
    run ((State.reset.setI 0xFFF).setReg 0 1) 0xF01E (fun s => (s.i, s.run)) = some (0x1000, .running) := by decide
theorem test_store : run (((v01 0x11 0x22).setReg 2 0x33).setI 0x300) 0xF255
    (fun s => (s.byteAt 0x300, s.byteAt 0x301, s.byteAt 0x302, s.byteAt 0x303, s.i)) =
    some (0x11, 0x22, 0x33, 0, 0x300) := by decide
theorem test_store_fault : run (((v01 0x11 0x22).setReg 2 0x33).setI 0xFFE) 0xF255
    (fun s => (s.byteAt 0xFFE, s.byteAt 0xFFF, s.run, s.cause, s.info, s.pc)) =
    some (0x11, 0x22, .fatal, .addressViolation, 0x1000, 0x200) := by decide
theorem test_load : run ((((State.reset.setI 0x301).putByte 0x301 0x22).putByte 0x302 0x33).setReg 2 0x99) 0xF165
    (fun s => (s.reg 0, s.reg 1, s.reg 2, s.i)) = some (0x22, 0x33, 0x99, 0x301) := by decide
theorem test_load_fault : run ((State.reset.setI 0xFFF).putByte 0xFFF 0x9A) 0xF165
    (fun s => (s.reg 0, s.reg 1, s.run, s.info)) = some (0x9A, 0, .fatal, 0x1000) := by decide

/-! ## Display (section 2.6) -/

theorem test_cls : run ((State.reset.flipPixel 3 4)) 0x00E0 (fun s => (s.pixel 3 4, s.display.getLast?, s.pc)) =
    some (false, some .clear, 0x202) := by decide
/-- A command as numbers: column, row, lit; 99 marks a command that is no pixel. -/
def show3 : DisplayCmd → Nat × Nat × Bool
  | .setPixel x y lit _ => (x.val, y.val, lit)
  | .clear => (99, 0, false)
  | .present => (99, 1, false)

theorem test_draw_wraps_both_axes : run (sprite 62 31 0xC0 0x81) 0xD012
    (fun s => (s.pixel 31 62, s.pixel 31 63, s.pixel 0 62, s.pixel 0 5)) = some (true, true, true, true) := by decide
theorem test_draw_stream : run (sprite 62 31 0xC0 0x81) 0xD012 (fun s => s.display.map show3) =
    some [(62, 31, true), (63, 31, true), (62, 0, true), (5, 0, true), (99, 1, false)] := by decide
theorem test_draw_fault : run (((v01 0 0).setI 0xFFF).putByte 0xFFF 0x80) 0xD012
    (fun s => (s.pixel 0 0, s.run, s.info, s.display.length)) = some (true, .fatal, 0x1000, 1) := by decide

/-! ## Stubs, unrecognized words, timer (sections 2.7, 2.8) -/

theorem test_stubs : [0xF307, 0xF00A, 0xE19E, 0xE1A1, 0xF033, 0xF029, 0xF018].all (fun w =>
    run (State.reset.setI 0xFFFF) w (fun s => (s.pc, s.diag, s.i)) == some (0x202, [BitVec.ofNat 16 w], 0xFFFF)) = true := by
  decide
theorem test_unrecognized : run State.reset 0xF015 (fun s => (s.run, s.cause, s.info, s.pc)) =
    some (.halted, .unrecognized, 0xF015, 0x200) := by decide
theorem test_timer_ticks : ((State.reset.portReinitialise 5).ticks 1).portRequest.serve.replies = [4] ∧
    ((State.reset.portReinitialise 5).ticks 6).portRequest.serve.replies = [0] ∧
    (State.reset.ticks 3).portRequest.replies = [0] := by decide
theorem test_timer_wraps : ((({ State.reset with cfg := { Config.defaults with dtZeroPolicy := .wrap } } :
    State).portReinitialise 5).ticks 6).portRequest.serve.replies = [0xFF] := by decide
/-- The first two bytes of program P1 and the order of R51. -/
theorem test_load_rom : after (step (State.reset.load [0x60, 0x0A, 0x70, 0x05])) (fun s => (s.reg 0, s.pc)) =
    some (0x0A, 0x202) := by decide
/-- The host writes no memory once the run has begun or ended (R206, R211). -/
theorem test_load_closed : after (step calling) (fun s => (s.load [0x12]).byteAt 0x200) = some 0x23 ∧
    ((State.reset.violate 0x1000).load [0x12]).byteAt 0x200 = 0 ∧ (calling.load [0x12]).byteAt 0x200 = 0x12 := by decide
theorem test_reset_is_default : State.resetWith Config.defaults = State.reset := rfl

/-! ## Witnesses: for each obligation with hypotheses, a state and operands that meet them -/

theorem witness_DecodeOfEncode : (Instr.haltUnrec 0x0000).wf = true ∧ (Instr.drw 15 15 15).wf = true := by decide
theorem witness_ReturnPopsOrUnderflows : (deep 1).sp ≠ 0 ∧ State.reset.sp = 0 := by decide
theorem witness_CallPushesOwnAddressOrOverflows :
    (deep 15).cfg.stackDepth ≠ some (deep 15).sp ∧ (deep 16).cfg.stackDepth = some (deep 16).sp := by decide
theorem witness_CallThenReturnIsReentry : (deep 15).cfg.stackDepth ≠ some (deep 15).sp := by decide
theorem witness_ShiftsByOne_x : State.reset.cfg.shiftSrc = .x ∧ (3 : Nibble) = 3 ∨
    State.reset.cfg.shiftSrc = .y ∧ (3 : Nibble) = 4 := .inl ⟨rfl, rfl⟩
theorem witness_ShiftsByOne_y :
    (State.resetWith { Config.defaults with shiftSrc := .y }).cfg.shiftSrc = .x ∧ (4 : Nibble) = 3 ∨
    (State.resetWith { Config.defaults with shiftSrc := .y }).cfg.shiftSrc = .y ∧ (4 : Nibble) = 4 := .inr ⟨rfl, rfl⟩
theorem witness_BlockStore : (State.reset.setI 0xFF0).i.toNat + (15 : Nibble).toNat ≤ 0xFFF ∧
    0xFFF < (State.reset.setI 0xFF1).i.toNat + (15 : Nibble).toNat ∧
    0xFFF < (State.reset.setI 0xFFFF).i.toNat + (0 : Nibble).toNat := by decide
theorem witness_BlockLoad : (State.reset.setI 0xFFF).i.toNat + (0 : Nibble).toNat ≤ 0xFFF ∧
    0xFFF < (State.reset.setI 0xFFF).i.toNat + (1 : Nibble).toNat ∧
    0xFFF < (State.reset.setI 0x1000).i.toNat + (0 : Nibble).toNat := by decide
theorem witness_StoreThenLoadRestores : (State.reset.setI 0x300).i.toNat + (3 : Nibble).toNat ≤ 0xFFF := by decide
theorem witness_NextFetchSeesStore : 1 ≤ (1 : Nibble).toNat ∧
    (State.reset.setI 0x202).i.toNat + (1 : Nibble).toNat ≤ 0xFFF ∧
    (State.reset.setI 0x202).i = (State.reset.setI 0x202).pc + 2 := by decide
theorem witness_DrawXorsSprite_no_row : (0 : Nibble) = 0 ∨
    (State.reset.setI 0xFFFF).i.toNat + (0 : Nibble).toNat ≤ 0x1000 := by decide
theorem witness_DrawXorsSprite_last_row : (15 : Nibble) = 0 ∨
    (State.reset.setI 0xFF1).i.toNat + (15 : Nibble).toNat ≤ 0x1000 := by decide
theorem witness_DrawFaultKeepsDrawnRows : (1 : Nibble) ≠ 0 ∧
    0x1000 < (State.reset.setI 0x1000).i.toNat + (1 : Nibble).toNat ∧
    0x1000 < (State.reset.setI 0xFFF).i.toNat + (2 : Nibble).toNat := by decide
theorem witness_DrawTwiceErases : (1 : Nibble) = 0 ∨ (sprite 0 0 0x80 0).i.toNat + (1 : Nibble).toNat ≤ 0x1000 := by decide

/-- A RUNNING timer at count `d` under policy `p`. -/
def timerAt (p : Config.ZeroPolicy) (d : Byte) : State :=
  { State.reset with dt := d, dtValid := true, cfg := { Config.defaults with dtZeroPolicy := p } }

theorem witness_TickDecrements : State.reset.dtValid = false ∧ (timerAt .hold 1).dtValid = true ∧ (timerAt .hold 1).dt ≠ 0 ∧
    (timerAt .hold 0).dt = 0 ∧ (timerAt .hold 0).cfg.dtZeroPolicy = .hold ∧ (timerAt .wrap 0).dtValid = true ∧
    (timerAt .wrap 0).dt = 0 ∧ (timerAt .wrap 0).cfg.dtZeroPolicy = .wrap := by decide
theorem witness_ReplyAfterTicks : (timerAt .wrap 0).portOpen = true ∧ (timerAt .hold 0).portOpen = true ∧
    5 ≤ (5 : Byte).toNat ∧ (5 : Byte).toNat < 6 := by decide
theorem witness_RequestIsAnswered : State.reset.run = .running ∧ State.reset.timerReq = false ∧
    State.reset.dtValid = false ∧ (timerAt .hold 0).run = .running ∧ (timerAt .hold 0).timerReq = false ∧
    (timerAt .hold 0).dtValid = true := by decide
theorem witness_ReinitialiseReplacesCount : State.reset.run = .running ∧ State.reset.timerReq = false := by decide

theorem witness_StepsIgnoreTimer : calling.timerReq = false ∧ ∃ t, step calling = .next t := ⟨rfl, _, rfl⟩
theorem witness_StepRunsDecodedInstruction : calling.run = .running ∧ calling.timerReq = false ∧
    calling.pc.toNat + 1 ≤ 0xFFF ∧
    decode [calling.byteAt calling.pc.toNat, calling.byteAt (calling.pc.toNat + 1)] = .ok (.call 0x300, []) ∧
    (Instr.call 0x300).wf = true := by decide
theorem witness_FetchOutsideMemoryIsFatal : (State.reset.setPc 0x1000).run = .running ∧
    (State.reset.setPc 0x1000).timerReq = false ∧ 0x1000 ≤ (State.reset.setPc 0x1000).pc.toNat ∧
    (State.reset.setPc 0xFFF).pc.toNat = 0xFFF := by decide
theorem witness_EndedRunStandsStill : (State.reset.haltUnrecognized 0).run = .halted ∧
    (State.reset.violate 0x1000).run = .fatal ∧ (State.reset.violate 0x1000).run ≠ .running := by decide
theorem witness_EveryInstructionAnswers : State.reset.run = .running := rfl
theorem witness_AccessMatrix : (∃ t, exec (.storeRegs 3) State.reset = .next t) ∧ isDest (.storeRegs 3) 15 = false ∧
    (∃ t, exec (.loadRegs 3) State.reset = .next t) ∧ isDest (.loadRegs 3) 4 = false := ⟨⟨_, rfl⟩, rfl, ⟨_, rfl⟩, rfl⟩
/-- The last byte listed for an address counts, and a pair outside memory is dropped. -/
theorem test_mem_init : [0x300, 0x301, 0x1000].map
    (State.resetWith { Config.defaults with memInit := [(0x300, 1), (0x1000, 9), (0x300, 2)] }).byteAt = [2, 0, 0] := by
  decide
theorem witness_TimerAtReset : Config.defaults.dtSeed = none ∧
    ({ Config.defaults with dtSeed := some 9 } : Config.Params).dtSeed = some 9 := ⟨rfl, rfl⟩
theorem witness_LoadPlacesImage : State.reset.run = .running ∧ State.reset.started = false ∧
    (State.reset.haltUnrecognized 0).run ≠ .running ∧ State.reset.start.started = true ∧ (List.replicate 3584 (0 : Byte)).length ≤ 3584 ∧
    3584 < (List.replicate 3585 (0 : Byte)).length :=
  ⟨rfl, rfl, by decide, rfl, le_of_eq List.length_replicate, by rw [List.length_replicate]; omega⟩

theorem witness_StepKeepsMemoryCanonical : calling.mem.wf = true ∧ ∃ t, step calling = .next t := ⟨by decide, _, rfl⟩
theorem addressesBounded_calling : addressesBounded calling :=
  ⟨fun _ _ => Nat.zero_le _, (fun a ha => by cases ha), by decide⟩
theorem witness_StepKeepsAddressesBounded : addressesBounded calling ∧ ∃ t, step calling = .next t :=
  ⟨addressesBounded_calling, _, rfl⟩
theorem witness_StepKeepsRecordConsistent : recordConsistent calling ∧ requestSound calling ∧ ∃ t, step calling = .next t :=
  ⟨⟨rfl, rfl⟩, (by intro h; cases h), _, rfl⟩
theorem witness_StepKeepsScreenMatchingStream : screenMatchesStream calling ∧ ∃ t, step calling = .next t := ⟨rfl, _, rfl⟩
theorem witness_HostKeepsInvariants : calling.mem.wf = true ∧ addressesBounded calling ∧ recordConsistent calling ∧
    requestSound calling ∧ screenMatchesStream calling ∧
    calling.load [0x12] ∈ [calling.load [0x12], calling.portRequest, calling.portReinitialise 5] :=
  ⟨by decide, addressesBounded_calling, ⟨rfl, rfl⟩, (by intro h; cases h), rfl, List.mem_cons_self⟩
theorem witness_StreamsGrowAndParametersStay : ∃ t, step (State.reset.withFetchWord 16 0xD012) = .next t := ⟨_, rfl⟩

end Sys2Proof.Tests
end

section
/-!
# The state family (10_state.md): the access matrix, the invariants, the streams, reset

First the frame of each named update and of the three data loops, then the access matrix. `Ending` says once how an
instruction leaves the control parts; the two step invariants over `PC`, the stack and the fault record are read off it.
-/

namespace Sys2Proof.Machine

open Sys2Proof.Safety

variable {s t u : State} {ps qs : List Part}

/-! ## Frames -/

theorem sameAt_refl (s : State) (p : Part) : sameAt s s p := by
  cases p <;> simp [sameAt]

theorem sameAt_trans {p : Part} (h : sameAt s t p) (h' : sameAt t u p) : sameAt s u p := by
  cases p <;> simp_all [sameAt]

theorem onlyChanges_refl (ps : List Part) (s : State) : onlyChanges ps s s := fun p _ => sameAt_refl s p

theorem onlyChanges_trans (h : onlyChanges ps s t) (h' : onlyChanges ps t u) : onlyChanges ps s u :=
  fun p hp => sameAt_trans (h p hp) (h' p hp)

theorem onlyChanges_mono (hsub : ps ⊆ qs) (h : onlyChanges ps s t) : onlyChanges qs s t :=
  fun p hp => h p fun hm => hp (hsub hm)

/-- One frame after another: each part either of them may change may be changed. -/
theorem onlyChanges_comp (h : onlyChanges ps s t) (h' : onlyChanges qs t u) : onlyChanges (ps ++ qs) s u :=
  onlyChanges_trans (onlyChanges_mono (List.subset_append_left _ _) h)
    (onlyChanges_mono (List.subset_append_right _ _) h')

/-! One frame for each named update: with the laws of State, every part outside its list reads the same. -/

theorem onlyChanges_setReg (s : State) (x : Nibble) (b : Byte) : onlyChanges [.regs] s (s.setReg x b) := by
  intro p hp; cases p <;> simp_all [sameAt, State.byteAt]
theorem onlyChanges_setI (s : State) (a : Word) : onlyChanges [.i] s (s.setI a) := by
  intro p hp; cases p <;> simp_all [sameAt, State.byteAt]
theorem onlyChanges_setPc (s : State) (a : Word) : onlyChanges [.pc] s (s.setPc a) := by
  intro p hp; cases p <;> simp_all [sameAt, State.byteAt]
theorem onlyChanges_advance (s : State) : onlyChanges [.pc] s s.advance := onlyChanges_setPc _ _
theorem onlyChanges_push (s : State) (a : Word) : onlyChanges [.stack] s (s.push a) := by
  intro p hp; cases p <;> simp_all [sameAt, State.byteAt]
theorem onlyChanges_popTo (s : State) (l : List Word) : onlyChanges [.stack] s (s.popTo l) := by
  intro p hp; cases p <;> simp_all [sameAt, State.byteAt]
theorem onlyChanges_stop (s : State) (r : Run) (c : Cause) (w : Word) : onlyChanges [.run] s (s.stop r c w) := by
  intro p hp; cases p <;> simp_all [sameAt, State.byteAt]
theorem onlyChanges_putByte (s : State) (a : Nat) (b : Byte) : onlyChanges [.mem] s (s.putByte a b) := by
  intro p hp; cases p <;> simp_all [sameAt]
theorem onlyChanges_emit (s : State) (c : DisplayCmd) : onlyChanges [.screen] s (s.emit c) := by
  intro p hp; cases p <;> simp_all [sameAt, State.byteAt]
theorem onlyChanges_flipPixel (s : State) (r : Fin 32) (c : Fin 64) : onlyChanges [.screen] s (s.flipPixel r c) := by
  intro p hp; cases p <;> simp_all [sameAt, State.byteAt]
theorem onlyChanges_clearScreen (s : State) : onlyChanges [.screen] s s.clearScreen := by
  intro p hp; cases p <;> simp_all [sameAt, State.byteAt]
theorem onlyChanges_emitDiag (s : State) (w : Word) : onlyChanges [.diag] s (s.emitDiag w) := by
  intro p hp; cases p <;> simp_all [sameAt, State.byteAt]
theorem onlyChanges_emitTrace (s : State) (w : Word) : onlyChanges [.trace] s (s.emitTrace w) := by
  intro p hp; cases p <;> simp_all [sameAt, State.byteAt]
theorem onlyChanges_drawn (s : State) : onlyChanges [.draws] s s.drawn := by
  intro p hp; cases p <;> simp_all [sameAt, State.byteAt]
theorem onlyChanges_start (s : State) : onlyChanges [.started] s s.start := by
  intro p hp; cases p <;> simp_all [sameAt, State.byteAt]
theorem onlyChanges_ticks (s : State) (k : Nat) : onlyChanges [.timer] s (s.ticks k) := by
  intro p hp; cases p <;> simp_all [sameAt, State.byteAt, State.reg]
theorem onlyChanges_elapse (s : State) : onlyChanges [.timer, .events] s s.elapse := by
  intro p hp; cases p <;> simp_all [sameAt, State.byteAt]
theorem onlyChanges_serve (s : State) : onlyChanges [.timer] s s.serve := by
  intro p hp; cases p <;> simp_all [sameAt, State.byteAt]

/-! ## The data loops of `Fx55`, `Fx65` and `Dxyn` -/

/-- How an effect over data memory ends (R63, R201): done, or abandoned at an address outside memory that `INFO` can hold;
either way it has touched only the parts `ps` before. -/
inductive DataEnd (ps : List Part) (s : State) : Except State State → Prop
  | ok {u : State} (hu : onlyChanges ps s u) : DataEnd ps s (.ok u)
  | error {u : State} {a : Nat} (hu : onlyChanges ps s u) (hout : Config.memSize ≤ a) (hfit : a < 2 ^ 16) :
      DataEnd ps s (.error (u.violate a))

/-- A loop whose turn `k` touches only `ps` inside memory and raises outside: its first failing address is at most
`max I 0x1000`, which is why it fits in 16 bits. -/
theorem dataEnd_forEach (hi : .i ∉ ps) {body : Nat → State → Except State State}
    (hok : ∀ k s, s.dataAddr k < Config.memSize → ∃ t, body k s = .ok t ∧ onlyChanges ps s t)
    (herr : ∀ k s, ¬ s.dataAddr k < Config.memSize → body k s = .error (s.violate (s.dataAddr k))) (n : Nat) (s : State) :
    DataEnd ps s (forEach body (List.range n) s) := by
  have hok' : ∀ k s, s.dataAddr k < Config.memSize → ∃ t, body k s = .ok t ∧ t.i = s.i ∧ onlyChanges ps s t := by
    intro k s hk
    obtain ⟨t, ht, hf⟩ := hok k s hk
    exact ⟨t, ht, hf .i hi, hf⟩
  obtain ⟨u, -, hu, ⟨-, h⟩ | ⟨-, h⟩⟩ := forEach_data (onlyChanges_refl ps) onlyChanges_trans hok' herr n s
  · rw [h]; exact .ok hu
  · rw [h]; exact .error hu (le_max_right _ _) (max_lt s.i.isLt (by decide))

theorem onlyChanges_drawBits (vx vy b : Byte) (row : Nat) (s : State) :
    onlyChanges [.screen] s (drawBits vx vy b row s) := by
  refine List.foldlRecOn _ _ (onlyChanges_refl _ _) fun t ht col _ => onlyChanges_trans ht ?_
  unfold drawBit
  split
  · exact onlyChanges_flipPixel _ _ _
  · exact onlyChanges_refl _ _

theorem DataEnd.presentFrame {r : Except State State} (h : DataEnd ps s r) (hps : .screen ∈ ps) :
    DataEnd ps s (presentFrame r) := by
  cases h with
  | ok hu =>
    exact .ok (onlyChanges_trans hu (onlyChanges_mono (List.cons_subset.2 ⟨hps, List.nil_subset _⟩) (onlyChanges_emit _ _)))
  | error hu hout hfit => exact .error hu hout hfit

/-- The rows of a sprite, and the frame presented after the last. -/
theorem dataEnd_draw (vx vy : Byte) (n : Nat) (s : State) :
    DataEnd [.screen] s (presentFrame (forEach (drawRow vx vy) (List.range n) s)) := by
  refine (dataEnd_forEach (by decide)
    (fun k s hk => ⟨_, ?_, onlyChanges_drawBits vx vy (s.byteAt (s.dataAddr k)) k s⟩) (fun k s hk => ?_) n s).presentFrame
    List.mem_cons_self
  · rw [drawRow, s.memRead_inside hk]
  · rw [drawRow, s.memRead_outside hk]

theorem dataEnd_store (n : Nat) (s : State) : DataEnd [.mem] s (forEach storeOne (List.range n) s) :=
  dataEnd_forEach (by decide) (fun _ s hk => ⟨_, s.memWrite_inside _ hk, onlyChanges_putByte _ _ _⟩)
    (fun _ s hk => s.memWrite_outside _ hk) n s

theorem dataEnd_load (n : Nat) (s : State) : DataEnd [.regs] s (forEach loadOne (List.range n) s) := by
  refine dataEnd_forEach (by decide)
    (fun k s hk => ⟨_, ?_, onlyChanges_setReg s (BitVec.ofNat 4 k) (s.byteAt (s.dataAddr k))⟩) (fun k s hk => ?_) n s
  · rw [loadOne, s.memRead_inside hk]
  · rw [loadOne, s.memRead_outside hk]

/-- `forEach_rel` for a relation that only the indexes looped over respect. -/
theorem forEach_rel_mem {R : State → State → Prop} (hrefl : ∀ s, R s s) (htrans : ∀ {s t u}, R s t → R t u → R s u)
    {body : Nat → State → Except State State} {ks : List Nat} (hbody : ∀ k ∈ ks, ∀ s, R s (endState (body k s)))
    (s : State) : R s (endState (forEach body ks s)) := by
  induction ks generalizing s with
  | nil => exact hrefl s
  | cons k ks ih =>
    have hk := hbody k List.mem_cons_self s
    rw [forEach_cons]
    cases h : body k s with
    | ok s' => rw [h] at hk; exact htrans hk (ih (fun j hj => hbody j (List.mem_cons_of_mem _ hj)) s')
    | error e => rw [h] at hk; exact hk

theorem reg_loadOne {k : Nat} {r : Nibble} (hk : k < r.toNat) (s : State) :
    (endState (loadOne k s)).reg r = s.reg r := by
  unfold loadOne State.memRead
  split_ifs
  · have hr : r ≠ BitVec.ofNat 4 k := by rintro rfl; simp at hk; omega
    exact (s.reg_setReg _ _ _).trans (if_neg hr)
  · rfl

/-- A block load writes no register above its last. -/
theorem reg_loadBlock {x r : Nibble} (hr : x.toNat < r.toNat) (s : State) :
    (endState (forEach loadOne (blockIndexes x) s)).reg r = s.reg r :=
  forEach_rel_mem (R := fun s t => t.reg r = s.reg r) (fun _ => rfl) (fun h h' => h'.trans h)
    (fun _ hk s => reg_loadOne (by have := List.mem_range.1 hk; omega) s) s

theorem reg_of_finish {r : Except State State} (h : finish r = .next t) (x : Nibble) : t.reg x = (endState r).reg x := by
  cases r <;> cases h <;> rfl

theorem DataEnd.onlyChanges {r : Except State State} (hr : DataEnd ps s r) (h : finish r = .next t) :
    onlyChanges (ps ++ [.pc, .run]) s t := by
  cases hr with
  | ok hu =>
    cases h
    exact onlyChanges_comp hu (onlyChanges_mono (by decide) (onlyChanges_advance _))
  | error hu _ _ =>
    cases h
    exact onlyChanges_comp hu (onlyChanges_mono (by decide) (onlyChanges_stop _ _ _ _))

/-! ## The access matrix (R35) -/

/-- Every part an instruction may change stands in its row of R35. -/
theorem exec_onlyChanges {i : Instr} (h : exec i s = .next t) : onlyChanges (writes i) s t := by
  cases i
  case cls =>
    cases h
    exact onlyChanges_mono (by simp [writes]) (onlyChanges_comp (onlyChanges_clearScreen s) (onlyChanges_advance _))
  case ret =>
    simp only [exec, execRet] at h
    split at h
    · cases h; exact onlyChanges_mono (by simp [writes]) (onlyChanges_stop _ _ _ _)
    · cases h
      exact onlyChanges_mono (by simp [writes]) (onlyChanges_comp (onlyChanges_popTo s _) (onlyChanges_setPc _ _))
  case call =>
    simp only [exec, execCall] at h
    split at h
    · cases h; exact onlyChanges_mono (by simp [writes]) (onlyChanges_stop _ _ _ _)
    · cases h
      exact onlyChanges_mono (by simp [writes]) (onlyChanges_comp (onlyChanges_push s _) (onlyChanges_setPc _ _))
  case jp | jpb => cases h; exact onlyChanges_setPc _ _
  case seImm | sneImm | seReg | sneReg =>
    simp only [exec, execSeImm, execSneImm, execSeReg, execSneReg, skipIf_eq] at h
    cases h; exact onlyChanges_setPc _ _
  case ldI | addI => cases h; exact onlyChanges_comp (onlyChanges_setI s _) (onlyChanges_advance _)
  case rnd =>
    cases h
    exact onlyChanges_mono (by simp [writes]) (onlyChanges_comp (onlyChanges_drawn s)
      (onlyChanges_comp (onlyChanges_setReg _ _ _) (onlyChanges_advance _)))
  case drw => exact onlyChanges_mono (by simp [writes]) ((dataEnd_draw _ _ _ _).onlyChanges h)
  case storeRegs => exact onlyChanges_mono (by simp [writes]) ((dataEnd_store _ _).onlyChanges h)
  case loadRegs => exact onlyChanges_mono (by simp [writes]) ((dataEnd_load _ _).onlyChanges h)
  case nopGetDt | nopKeyWait | nopSkp | nopSknp | nopBcd | nopFont | nopSetSt =>
    cases h
    exact onlyChanges_mono (by simp [writes]) (onlyChanges_comp (onlyChanges_emitDiag s _) (onlyChanges_advance _))
  case haltUnrec => cases h; exact onlyChanges_stop _ _ _ _
  all_goals cases h; exact onlyChanges_comp (onlyChanges_setReg s _ _) (onlyChanges_advance _)

/-- Every register an instruction may change is one it names as a destination (R21). -/
theorem exec_reg_of_not_isDest {i : Instr} (h : exec i s = .next t) {r : Nibble} (hr : isDest i r = false) :
    t.reg r = s.reg r := by
  by_cases hw : .regs ∈ writes i
  · cases i
    case loadRegs x =>
      have hx : x.toNat < r.toNat := by simpa [isDest] using hr
      exact (reg_of_finish h r).trans (reg_loadBlock hx s)
    case ldImm | addImm | ldReg | orReg | andReg | xorReg | addReg | subReg | shrReg | subnReg | shlReg | rnd =>
      cases h
      exact (State.reg_setReg _ _ _ _).trans (if_neg (by simpa [isDest] using hr))
    all_goals simp [writes] at hw
  · exact exec_onlyChanges h .regs hw r

/-- Settles O39: the frame by the row's parts, the registers by the destinations. -/
theorem accessMatrix : Obligations.AccessMatrix :=
  fun _ _ _ h => ⟨exec_onlyChanges h, fun _ hr => exec_reg_of_not_isDest h hr⟩

/-- No instruction reaches the timer (R174). -/
theorem timer_notMem_writes (i : Instr) : .timer ∉ writes i := by cases i <;> simp [writes]

theorem cfg_notMem_writes (i : Instr) : .cfg ∉ writes i := by cases i <;> simp [writes]

/-! ## How an instruction leaves `PC`, the stack and the fault record -/

/-- The ways an instruction ends (R94 to R97, R106, R108, R192, R206), as `PC`, the stack and the record show them. -/
inductive Ending (i : Instr) (s t : State) : Prop
  | flowed (hrec : sameAt s t .run) (hstack : t.stack = s.stack)
      (hpc : t.pc = s.pc + 2 ∨ t.pc = s.pc + 2 + 2 ∨ ∃ nnn, t.pc = zextAddr nnn)
  | returned (hrec : sameAt s t .run) (hstack : s.stack = t.pc :: t.stack)
  | called (hrec : sameAt s t .run) (hroom : s.stackFull = false) (hstack : t.stack = s.pc :: s.stack)
      (hpc : ∃ nnn, t.pc = zextAddr nnn)
  | halted (hpc : t.pc = s.pc) (hstack : t.stack = s.stack) (hrun : t.run = .halted) (hcause : t.cause = .unrecognized)
      (hi : i = .haltUnrec t.info)
  | violated (hpc : t.pc = s.pc) (hstack : t.stack = s.stack) (hrun : t.run = .fatal)
      (hcause : t.cause = .addressViolation) (hinfo : Config.memSize ≤ t.info.toNat)
  | underflowed (hpc : t.pc = s.pc) (hstack : t.stack = s.stack) (hrun : t.run = .fatal)
      (hcause : t.cause = .stackUnderflow) (hinfo : t.info = 0)
  | overflowed (hpc : t.pc = s.pc) (hstack : t.stack = s.stack) (hrun : t.run = .fatal)
      (hcause : t.cause = .stackOverflow) (hinfo : t.info = s.pc)

/-- The address an access failed at stands in `INFO` whole. -/
theorem violate_info_toNat (s : State) {a : Nat} (h : a < 2 ^ 16) : (s.violate a).info.toNat = a :=
  Nat.mod_eq_of_lt h

theorem DataEnd.ending {i : Instr} {r : Except State State} (hr : DataEnd ps s r)
    (hps : .pc ∉ ps ∧ .stack ∉ ps ∧ .run ∉ ps) (h : finish r = .next t) : Ending i s t := by
  obtain ⟨hpc, hstack, hrec⟩ := hps
  cases hr with
  | @ok u hu =>
    cases h
    exact .flowed (hu .run hrec) (hu .stack hstack) (.inl (congrArg (· + 2) (hu .pc hpc)))
  | @error u a hu hout hfit =>
    cases h
    exact .violated (hu .pc hpc) (hu .stack hstack) rfl rfl (hout.trans_eq (violate_info_toNat u hfit).symm)

theorem ending_of_skipIf {i : Instr} {cond : Bool} (h : skipIf cond s = .next t) : Ending i s t := by
  rw [skipIf_eq] at h
  cases h
  cases cond
  · exact .flowed (sameAt_refl s .run) rfl (.inl rfl)
  · exact .flowed (sameAt_refl s .run) rfl (.inr (.inl rfl))

/-- Every instruction ends in one of these ways. -/
theorem exec_ending {i : Instr} (h : exec i s = .next t) : Ending i s t := by
  cases i
  case ret =>
    simp only [exec, execRet] at h
    split at h
    · cases h; exact .underflowed rfl rfl rfl rfl rfl
    · next a l hs => cases h; exact .returned (sameAt_refl s .run) hs
  case call nnn =>
    simp only [exec, execCall] at h
    split at h
    · cases h; exact .overflowed rfl rfl rfl rfl rfl
    · next hf => cases h; exact .called (sameAt_refl s .run) (by simpa using hf) rfl ⟨nnn, rfl⟩
  case jp nnn | jpb nnn => cases h; exact .flowed (sameAt_refl s .run) rfl (.inr (.inr ⟨nnn, rfl⟩))
  case seImm | sneImm | seReg | sneReg => exact ending_of_skipIf h
  case drw => exact (dataEnd_draw _ _ _ _).ending (by decide) h
  case storeRegs => exact (dataEnd_store _ _).ending (by decide) h
  case loadRegs => exact (dataEnd_load _ _).ending (by decide) h
  case haltUnrec => cases h; exact .halted rfl rfl rfl rfl rfl
  all_goals cases h; exact .flowed (sameAt_refl s .run) rfl (.inl rfl)

/-! ## `PC` and the stack stay within their bounds (R36) -/

theorem zextAddr_toNat_le (nnn : Imm12) : (zextAddr nnn).toNat ≤ 0xFFF := by
  have := nnn.isLt
  rw [zextAddr, BitVec.toNat_setWidth_of_le (by decide)]
  omega

/-- What of the state the bounds speak of. -/
theorem addressesBounded_congr (hcfg : t.cfg = s.cfg) (hstack : t.stack = s.stack) (hpc : t.pc = s.pc) :
    addressesBounded t ↔ addressesBounded s := by
  simp only [addressesBounded, stackBounded, entriesBounded, State.sp, hcfg, hstack, hpc]

/-- An instruction fetched inside memory keeps the bounds. -/
theorem exec_addressesBounded {i : Instr} (h : exec i s = .next t) (hfetch : s.pc.toNat + 1 < Config.memSize)
    (hs : addressesBounded s) : addressesBounded t := by
  have hcfg : t.cfg = s.cfg := exec_onlyChanges h .cfg (cfg_notMem_writes i)
  have ⟨hdepth, hentries, _⟩ := hs
  simp only [Config.memSize] at hfetch
  cases exec_ending h with
  | flowed _ hstack hpc' =>
    refine ⟨?_, ?_, ?_⟩
    · simpa only [stackBounded, State.sp, hcfg, hstack] using hdepth
    · simpa only [entriesBounded, hstack] using hentries
    · rcases hpc' with e | e | ⟨nnn, e⟩
      · rw [e]; bv_omega
      · rw [e]; bv_omega
      · rw [e]; exact (zextAddr_toNat_le nnn).trans (by decide)
  | returned _ hstack =>
    rw [entriesBounded, hstack, List.forall_mem_cons] at hentries
    refine ⟨fun d hd => ?_, hentries.2, hentries.1.trans (by decide)⟩
    have := hdepth d (hcfg ▸ hd)
    rw [State.sp, hstack, List.length_cons] at this
    exact Nat.le_of_succ_le this
  | called _ hroom hstack hpc' =>
    refine ⟨fun d hd => ?_, ?_, ?_⟩
    · rw [hcfg] at hd
      have hle := hdepth d hd
      have hne : d ≠ s.sp := by simpa [State.stackFull, hd] using hroom
      rw [State.sp, hstack, List.length_cons]
      exact Nat.succ_le_of_lt (lt_of_le_of_ne hle hne.symm)
    · rw [entriesBounded, hstack, List.forall_mem_cons]
      exact ⟨by omega, hentries⟩
    · obtain ⟨nnn, e⟩ := hpc'
      rw [e]; exact (zextAddr_toNat_le nnn).trans (by decide)
  | halted hpc' hstack | violated hpc' hstack | underflowed hpc' hstack | overflowed hpc' hstack =>
    exact (addressesBounded_congr hcfg hstack hpc').2 hs

/-- Settles O45, by the cases of a step. -/
theorem stepKeepsAddressesBounded : Obligations.StepKeepsAddressesBounded := by
  intro s t hs h
  obtain ⟨-, ⟨-, rfl⟩ | ⟨-, hf⟩ | ⟨-, w, hf, he⟩⟩ := step_next_cases h
  · exact (addressesBounded_congr rfl rfl rfl).2 hs
  · obtain ⟨a, -, -, rfl⟩ := State.fetch_error hf
    exact (addressesBounded_congr rfl rfl rfl).2 hs
  · exact exec_addressesBounded he (State.fetch_ok hf).1 ((addressesBounded_congr rfl rfl rfl).2 hs)

/-! ## The record of the end of a run (R200) -/

/-- While the run is on, a consistent record is an untouched one (R30). -/
theorem recordConsistent_of_running (hrun : s.run = .running) : recordConsistent s ↔ s.cause = .none ∧ s.info = 0 := by
  unfold recordConsistent
  cases s.cause <;> simp [hrun]

/-- A violation at an address outside memory that fits in `INFO` leaves a consistent record. -/
theorem recordConsistent_of_violation (hrun : s.run = .fatal) (hcause : s.cause = .addressViolation)
    (hinfo : Config.memSize ≤ s.info.toNat) : recordConsistent s := by
  rw [recordConsistent, hcause]; exact ⟨hrun, hinfo⟩

/-- The decoded instruction, run with an untouched record, leaves a consistent one. -/
theorem exec_recordConsistent {w : Word} (h : exec (decodeWord w) s = .next t) (hrun : s.run = .running)
    (hs : recordConsistent s) : recordConsistent t := by
  cases exec_ending h with
  | flowed hrec | returned hrec | called hrec =>
    obtain ⟨hrun', hcause', hinfo'⟩ := hrec
    rw [recordConsistent_of_running (hrun'.trans hrun), hcause', hinfo']
    exact (recordConsistent_of_running hrun).1 hs
  | halted _ _ hrun' hcause' hi =>
    rw [recordConsistent, hcause', decodeWord_haltUnrec hi]
    rw [decodeWord_haltUnrec hi] at hi
    exact ⟨hrun', hi⟩
  | violated _ _ hrun' hcause' hinfo' => exact recordConsistent_of_violation hrun' hcause' hinfo'
  | underflowed _ _ hrun' hcause' hinfo' => rw [recordConsistent, hcause']; exact ⟨hrun', hinfo'⟩
  | overflowed hpc' _ hrun' hcause' hinfo' => rw [recordConsistent, hcause']; exact ⟨hrun', hinfo'.trans hpc'.symm⟩

/-- Settles O46, by the cases of a step: after each of them no request pends. -/
theorem stepKeepsRecordConsistent : Obligations.StepKeepsRecordConsistent := by
  intro s t hs _ h
  obtain ⟨hrun, ⟨-, rfl⟩ | ⟨hreq, hf⟩ | ⟨hreq, w, hf, he⟩⟩ := step_next_cases h
  · exact ⟨hs, fun hq => by cases hq⟩
  · obtain ⟨a, hout, hfit, rfl⟩ := State.fetch_error hf
    exact ⟨recordConsistent_of_violation rfl rfl (hout.trans_eq (violate_info_toNat _ hfit).symm),
      fun hq => absurd (hreq.symm.trans hq) (by decide)⟩
  · obtain ⟨-, -, hreq', -⟩ := exec_onlyChanges he .timer (timer_notMem_writes _)
    exact ⟨exec_recordConsistent he hrun hs, fun hq => absurd ((hreq'.trans hreq).symm.trans hq) (by decide)⟩

/-! ## The streams grow, the parameters stay (R32, R5, R211) -/

/-- `t` continues the streams of `s` under the same parameters, and does not undo the beginning of the run. -/
def continues (s t : State) : Prop := streamsGrow s t ∧ t.cfg = s.cfg ∧ (s.started = true → t.started = true)

theorem continues_trans (h : continues s t) (h' : continues t u) : continues s u := by
  obtain ⟨⟨hd, hg, ht, hr⟩, hcfg, hst⟩ := h
  obtain ⟨⟨hd', hg', ht', hr'⟩, hcfg', hst'⟩ := h'
  exact ⟨⟨hd.trans hd', hg.trans hg', ht.trans ht', hr.trans hr'⟩, hcfg'.trans hcfg, hst' ∘ hst⟩

/-- A change outside the streams, the parameters and the mark that the run has begun. -/
theorem continues_of_onlyChanges (h : onlyChanges ps s t)
    (hps : .screen ∉ ps ∧ .timer ∉ ps ∧ .diag ∉ ps ∧ .trace ∉ ps ∧ .started ∉ ps ∧ .cfg ∉ ps) : continues s t := by
  obtain ⟨hs, htm, hg, ht, hst, hcfg⟩ := hps
  obtain ⟨-, hdisplay⟩ := h .screen hs
  obtain ⟨-, -, -, hreplies⟩ := h .timer htm
  have hdiag : t.diag = s.diag := h .diag hg
  have htrace : t.trace = s.trace := h .trace ht
  have hstarted : t.started = s.started := h .started hst
  simp only [continues, streamsGrow, hdisplay, hdiag, htrace, hreplies, hstarted, List.prefix_rfl, true_and, imp_self,
    and_true]
  exact h .cfg hcfg

theorem respects_continues : Respects continues where
  refl s := continues_of_onlyChanges (onlyChanges_refl [] s) (by decide)
  trans := continues_trans
  setReg s x b := continues_of_onlyChanges (onlyChanges_setReg s x b) (by decide)
  setI s a := continues_of_onlyChanges (onlyChanges_setI s a) (by decide)
  setPc s a := continues_of_onlyChanges (onlyChanges_setPc s a) (by decide)
  push s a _ := continues_of_onlyChanges (onlyChanges_push s a) (by decide)
  popTo s _ l _ := continues_of_onlyChanges (onlyChanges_popTo s l) (by decide)
  fatal s c w _ := continues_of_onlyChanges (onlyChanges_stop s .fatal c w) (by decide)
  halt s w := continues_of_onlyChanges (onlyChanges_stop s .halted .unrecognized w) (by decide)
  putByte s a b _ := continues_of_onlyChanges (onlyChanges_putByte s a b) (by decide)
  flipPixel s r c := by simp [continues, streamsGrow]
  clearScreen s := by simp [continues, streamsGrow]
  present s := by simp [continues, streamsGrow]
  emitDiag s w := by simp [continues, streamsGrow]
  drawn s := continues_of_onlyChanges (onlyChanges_drawn s) (by decide)

theorem continues_emitTrace (s : State) (w : Word) : continues s (s.emitTrace w) := by
  cases h : s.cfg.traceFlag <;> simp [continues, streamsGrow, h]

/-- Settles O49: every update an instruction or a step is made of continues the streams. -/
theorem streamsGrowAndParametersStay : Obligations.StreamsGrowAndParametersStay :=
  fun _ _ => respects_continues.step (fun s => by simp [continues, streamsGrow]) (fun s => by simp [continues, streamsGrow])
    (fun s => by simp [continues, streamsGrow]) continues_emitTrace

/-! ## Reset (R34, R230) -/

/-- One more cell: it counts at its own address. -/
theorem listedByte_concat (cells : List Host.Cell) (c : Host.Cell) (a : Nat) :
    listedByte (cells ++ [c]) a = if c.1 = a then c.2 else listedByte cells a := by
  by_cases h : c.1 = a <;> simp [listedByte, h]

/-- The memory a list of cells describes holds, inside memory, the last byte listed for an address (D14). -/
theorem Memory.get_ofCells (cells : List Host.Cell) (a : Nat) :
    (Memory.ofCells cells).get a = if a < Config.memSize then listedByte cells a else 0 := by
  induction cells using List.reverseRecOn with
  | nil => exact (ite_self _).symm
  | append_singleton cells c ih =>
    rw [Memory.get_ofCells_concat, listedByte_concat, ih]
    by_cases hc : c.1 = a
    · subst hc; simp +contextual
    · simp [hc, Ne.symm hc]

/-- Settles O40. -/
theorem resetState : Obligations.ResetState := by
  intro p
  refine ⟨rfl, rfl, fun x => ?_, rfl, fun r c => Screen.get_blank r c, rfl, rfl, rfl, rfl, rfl, rfl, rfl,
    Memory.get_ofCells p.memInit, rfl⟩
  exact Vector.getElem_replicate _

/-- Settles O43: the stack, the record, the timer and the screen are those of `State.reset`. -/
theorem resetMeetsInvariants : Obligations.ResetMeetsInvariants := by
  intro p
  have haddr : addressesBounded (State.resetWith p) :=
    ⟨fun _ _ => Nat.zero_le _, List.forall_mem_nil _, show State.reset.pc.toNat ≤ 0x1002 by decide⟩
  have hreq : requestSound (State.resetWith p) := fun h => Bool.noConfusion h
  exact ⟨Memory.wf_ofCells p.memInit, haddr, ⟨rfl, rfl⟩, hreq, rfl⟩

end Sys2Proof.Machine
end

section
/-!
# The memory family (20_memory.md): the canonical form, a store into the next instruction

A write inside memory is the one update that touches memory, so the canonical form is a relation every update respects.
`byteAt_storeBlock` says once what a block store leaves at every address, whether it ends or is abandoned.
-/

namespace Sys2Proof.Machine

open Sys2Proof.Safety

variable {s t : State}

/-! ## The canonical form (R27, R50) -/

/-- `t` has the canonical form of memory if `s` has it. -/
def keepsCanonical (s t : State) : Prop := s.mem.wf = true → t.mem.wf = true

theorem keepsCanonical_of_mem_eq (h : t.mem = s.mem) : keepsCanonical s t := fun hs => h ▸ hs

theorem respects_keepsCanonical : Respects keepsCanonical where
  refl _ := keepsCanonical_of_mem_eq rfl
  trans h h' := h' ∘ h
  setReg _ _ _ := keepsCanonical_of_mem_eq rfl
  setI _ _ := keepsCanonical_of_mem_eq rfl
  setPc _ _ := keepsCanonical_of_mem_eq rfl
  push _ _ _ := keepsCanonical_of_mem_eq rfl
  popTo _ _ _ _ := keepsCanonical_of_mem_eq rfl
  fatal _ _ _ _ := keepsCanonical_of_mem_eq rfl
  halt _ _ := keepsCanonical_of_mem_eq rfl
  putByte _ _ b ha := fun hs => Memory.wf_put hs ha b
  flipPixel _ _ _ := keepsCanonical_of_mem_eq rfl
  clearScreen _ := keepsCanonical_of_mem_eq rfl
  present _ := keepsCanonical_of_mem_eq rfl
  emitDiag _ _ := keepsCanonical_of_mem_eq rfl
  drawn _ := keepsCanonical_of_mem_eq rfl

/-- Settles O44: of the updates a step is made of only a write inside memory touches memory, and it keeps the form. -/
theorem stepKeepsMemoryCanonical : Obligations.StepKeepsMemoryCanonical := fun _ _ hs h =>
  respects_keepsCanonical.step (fun _ => keepsCanonical_of_mem_eq rfl) (fun _ => keepsCanonical_of_mem_eq rfl)
    (fun _ => keepsCanonical_of_mem_eq rfl) (fun _ _ => keepsCanonical_of_mem_eq rfl) h hs

/-! ## What a block store leaves in memory (R143, R63) -/

/-- How a block store ends: done, or abandoned at the first address outside memory. -/
theorem storeBlock_cases (n : Nat) (s : State) :
    ∃ t, t.i = s.i ∧ onlyChanges [.mem] s t ∧
      ((n = 0 ∨ s.i.toNat + n ≤ Config.memSize) ∧ forEach storeOne (List.range n) s = .ok t ∨
       Config.memSize < s.i.toNat + n ∧
         forEach storeOne (List.range n) s = .error (t.violate (max s.i.toNat Config.memSize))) :=
  forEach_data (onlyChanges_refl _) onlyChanges_trans
    (fun _ s hk => ⟨_, s.memWrite_inside _ hk, rfl, onlyChanges_putByte _ _ _⟩) (fun _ s hk => s.memWrite_outside _ hk) n s

/-- One transfer writes its own address where that lies in memory, and no other. -/
theorem byteAt_storeOne (k : Nat) (s : State) (a : Nat) :
    (endState (storeOne k s)).byteAt a =
      if a = s.dataAddr k ∧ a < Config.memSize then s.reg (BitVec.ofNat 4 k) else s.byteAt a := by
  unfold storeOne
  by_cases hk : s.dataAddr k < Config.memSize
  · rw [s.memWrite_inside _ hk, endState, State.byteAt_putByte]
    exact if_congr (iff_self_and.2 fun ha => ha ▸ hk) rfl rfl
  · have ha : ¬(a = s.dataAddr k ∧ a < Config.memSize) := by rintro ⟨rfl, ha⟩; exact hk ha
    rw [s.memWrite_outside _ hk, if_neg ha]
    rfl

/-- Every address of the block inside memory holds its register, every other what it held. -/
theorem byteAt_storeBlock (n : Nat) (s : State) (a : Nat) :
    (endState (forEach storeOne (List.range n) s)).byteAt a =
      if s.i.toNat ≤ a ∧ a < s.i.toNat + n ∧ a < Config.memSize then s.reg (BitVec.ofNat 4 (a - s.i.toNat))
      else s.byteAt a := by
  induction n with
  | zero => rw [if_neg (by omega)]; rfl
  | succ n ih =>
    obtain ⟨t, hi, hframe, ⟨-, hf⟩ | ⟨hout, hf⟩⟩ := storeBlock_cases n s
    · have hreg : t.reg (BitVec.ofNat 4 n) = s.reg (BitVec.ofNat 4 n) := hframe .regs (by decide) _
      have hlast : endState (forEach storeOne (List.range (n + 1)) s) = endState (storeOne n t) := by
        rw [List.range_succ, forEach_append, hf]
        simp only [forEach_cons, forEach_nil]
        cases storeOne n t <;> rfl
      rw [hf, endState] at ih
      rw [hlast, byteAt_storeOne, ih, hreg, State.dataAddr, hi]
      by_cases ha : a = s.i.toNat + n
      · subst ha; simp
      · simp only [ha, false_and, if_false]
        exact if_congr (by omega) rfl rfl
    · rw [List.range_succ, forEach_append, hf]
      rw [hf] at ih
      exact ih.trans (if_congr (by omega) rfl rfl)

theorem exec_storeRegs (x : Nibble) (s : State) :
    exec (.storeRegs x) s = finish (forEach storeOne (List.range (x.toNat + 1)) s) := rfl

/-- A block store inside memory is done: the advance follows, and register `k` lies at `I + k`. -/
theorem exec_storeRegs_inside {x : Nibble} (h : s.i.toNat + x.toNat < Config.memSize) :
    ∃ t, exec (.storeRegs x) s = .next t ∧ t.pc = s.pc + 2 ∧
      ∀ k : Nibble, k.toNat ≤ x.toNat → t.byteAt (s.i.toNat + k.toNat) = s.reg k := by
  obtain ⟨t, -, hframe, ⟨-, hf⟩ | ⟨hout, -⟩⟩ := storeBlock_cases (x.toNat + 1) s
  · refine ⟨t.advance, ?_, congrArg (· + 2) (hframe .pc (by decide)), fun k hk => ?_⟩
    · rw [exec_storeRegs, hf, finish_ok]
    · have hbyte := byteAt_storeBlock (x.toNat + 1) s (s.i.toNat + k.toNat)
      rw [hf, if_pos (by omega), Nat.add_sub_cancel_left, BitVec.ofNat_toNat, BitVec.setWidth_eq] at hbyte
      exact hbyte
  · omega

/-- Settles O22: the fetch reads the addresses `I` and `I + 1`, where the store has put `V[0]` and `V[1]`. -/
theorem nextFetchSeesStore : Obligations.NextFetchSeesStore := by
  intro x s hx hblock hi
  have hblock' : s.i.toNat + x.toNat < Config.memSize := Nat.lt_succ_of_le hblock
  obtain ⟨t, hexec, hpc, hbyte⟩ := exec_storeRegs_inside hblock'
  rw [← hi] at hpc
  refine ⟨t, hexec, ?_⟩
  have hhigh : t.byteAt s.i.toNat = s.reg 0 := hbyte 0 (Nat.zero_le _)
  have hlow : t.byteAt (s.i.toNat + 1) = s.reg 1 := hbyte 1 hx
  rw [t.fetch_inside (by rw [hpc]; omega), hpc, hhigh, hlow]

end Sys2Proof.Machine
end

section
/-!
# The encoding family (30_encoding.md): fields, round trips, unrecognized words

A packed word has the fields it was packed from, and a word is packed from its own fields (R71 to R73). With the
disjoint rows of R74 this gives the two round trips: an instruction with a row of its own is what its word decodes to, and
the instruction a row reads from a word that hits it encodes to that word. The table of R76 then lists the words that no
such instruction encodes to.
-/

namespace Sys2Proof

variable {w : Word} {op n : Nibble} {kk : Byte}

/-! ## A word and its fields (R71 to R73) -/

@[simp] theorem opField_packNNN (op : Nibble) (nnn : Imm12) : opField (packNNN op nnn) = op := by
  unfold opField packNNN; ext i hi; interval_cases i <;> simp

@[simp] theorem opField_packXKK (op x : Nibble) (kk : Byte) : opField (packXKK op x kk) = op := by
  unfold opField packXKK; ext i hi; interval_cases i <;> simp

@[simp] theorem opField_packXYN (op x y n : Nibble) : opField (packXYN op x y n) = op := by
  unfold opField packXYN; ext i hi; interval_cases i <;> simp

theorem packNNN_fields (w : Word) : packNNN (opField w) (nnnField w) = w := by
  unfold packNNN opField nnnField; ext i hi; interval_cases i <;> simp

theorem packXKK_fields (w : Word) : packXKK (opField w) (xField w) (kkField w) = w := by
  unfold packXKK opField xField kkField; ext i hi; interval_cases i <;> simp

theorem packXYN_fields (w : Word) : packXYN (opField w) (xField w) (yField w) (nField w) = w := by
  unfold packXYN opField xField yField nField; ext i hi; interval_cases i <;> simp

/-! A word whose literal fields are known is packed from them and its other fields. -/

theorem packNNN_of_op (h : opField w = op) : packNNN op (nnnField w) = w := h ▸ packNNN_fields w

theorem packXKK_of_op (h : opField w = op) : packXKK op (xField w) (kkField w) = w := h ▸ packXKK_fields w

theorem packXYN_of_op (h : opField w = op) : packXYN op (xField w) (yField w) (nField w) = w := h ▸ packXYN_fields w

theorem packXYN_of_op_n (h : opField w = op) (hn : nField w = n) : packXYN op (xField w) (yField w) n = w :=
  hn ▸ packXYN_of_op h

theorem packXKK_of_op_kk (h : opField w = op) (hkk : kkField w = kk) : packXKK op (xField w) kk = w :=
  hkk ▸ packXKK_of_op h

/-- Settles O5: a word is packed from its four fields. -/
theorem fieldsReconstructWord : Obligations.FieldsReconstructWord := packXYN_fields

/-! ## A word with the literal digits of a pattern (R75) -/

theorem opField_of_and (h : w &&& 0xF000 = packNNN op 0) : opField w = op := by
  rw [← packNNN_fields w, packNNN_and] at h
  simpa using congrArg opField h

theorem opField_nField_of_and (h : w &&& 0xF00F = packXYN op 0 0 n) : opField w = op ∧ nField w = n := by
  rw [← packXYN_fields w, packXYN_and] at h
  exact ⟨by simpa using congrArg opField h, by simpa using congrArg nField h⟩

theorem opField_kkField_of_and (h : w &&& 0xF0FF = packXKK op 0 kk) : opField w = op ∧ kkField w = kk := by
  rw [← packXKK_fields w, packXKK_and_low] at h
  exact ⟨by simpa using congrArg opField h, by simpa using congrArg kkField h⟩

/-! ## Instructions with a row of their own -/

/-- Every instruction but `HALT.UNREC` stands in a row of R75 with literal digits. -/
def Instr.hasRow : Instr → Bool
  | .haltUnrec _ => false
  | _ => true

theorem Instr.hasRow_haltUnrec (w : Word) : (Instr.haltUnrec w).hasRow = false := rfl

theorem Instr.wf_of_hasRow {i : Instr} (h : i.hasRow = true) : i.wf = true := by
  cases i
  case haltUnrec => cases h
  all_goals rfl

/-! ## Decoding a packed word -/

theorem decodeWord_packNNN {c : Imm12 → Instr} (hr : rowNNN (packNNN op 0) c ∈ rows) (nnn : Imm12) :
    decodeWord (packNNN op nnn) = c nnn := by
  rw [decodeWord_of_hits hr (beq_iff_eq.2 (packNNN_and op nnn))]
  exact congrArg c (nnnField_packNNN op nnn)

theorem decodeWord_packXKK {c : Nibble → Byte → Instr} (hr : rowXKK (packXKK op 0 0) c ∈ rows) (x : Nibble) (kk : Byte) :
    decodeWord (packXKK op x kk) = c x kk := by
  rw [decodeWord_of_hits hr (beq_iff_eq.2 (packXKK_and_op op x kk))]
  exact congrArg₂ c (xField_packXKK op x kk) (kkField_packXKK op x kk)

theorem decodeWord_packXYN {c : Nibble → Nibble → Instr} (hr : rowXY (packXYN op 0 0 n) c ∈ rows) (x y : Nibble) :
    decodeWord (packXYN op x y n) = c x y := by
  rw [decodeWord_of_hits hr (beq_iff_eq.2 (packXYN_and op x y n))]
  exact congrArg₂ c (xField_packXYN op x y n) (yField_packXYN op x y n)

theorem decodeWord_packXKK_low {c : Nibble → Instr} (hr : rowX (packXKK op 0 kk) c ∈ rows) (x : Nibble) :
    decodeWord (packXKK op x kk) = c x := by
  rw [decodeWord_of_hits hr (beq_iff_eq.2 (packXKK_and_low op x kk))]
  exact congrArg c (xField_packXKK op x kk)

theorem decodeWord_drw (x y n : Nibble) : decodeWord (packXYN 0xD x y n) = .drw x y n := by
  have hr : (⟨0xF000, 0xD000, fun w => .drw (xField w) (yField w) (nField w)⟩ : Row) ∈ rows := by
    simp [rows, rowsHigh]
  rw [decodeWord_of_hits hr (beq_iff_eq.2 (packXYN_and_op 0xD x y n))]
  simp

/-- The word of an instruction with a row of its own decodes to that instruction (R71, R75). -/
theorem decodeWord_encode {i : Instr} (h : i.hasRow = true) : decodeWord (encode i) = i := by
  cases i
  case cls | ret => rfl
  case jp nnn | call nnn | ldI nnn | jpb nnn =>
    exact decodeWord_packNNN (by simp [rows, rowsLow, rowsHigh, packNNN]) nnn
  case seImm x kk | sneImm x kk | ldImm x kk | addImm x kk | rnd x kk =>
    exact decodeWord_packXKK (by simp [rows, rowsLow, rowsHigh, packXKK]) x kk
  case drw x y n => exact decodeWord_drw x y n
  case addI x | storeRegs x | loadRegs x | nopGetDt x | nopKeyWait x | nopSkp x | nopSknp x | nopBcd x | nopFont x |
      nopSetSt x =>
    exact decodeWord_packXKK_low (by simp [rows, rowsHigh, rowsStub, packXKK]) x
  case seReg x y | sneReg x y | ldReg x y | orReg x y | andReg x y | xorReg x y | addReg x y | subReg x y | shrReg x y |
      subnReg x y | shlReg x y =>
    exact decodeWord_packXYN (by simp [rows, rowsLow, rowsAlu, rowsHigh, packXYN]) x y
  case haltUnrec => cases h

/-! ## Encoding what a row reads -/

/-- A row reads from a word that hits it an instruction with a row of its own, the one that encodes to that word. -/
def Row.Sound (r : Row) : Prop := ∀ w, r.hits w = true → (r.build w).hasRow = true ∧ encode (r.build w) = w

theorem sound_rowLiteral {p : Word} {i : Instr} (hi : i.hasRow = true ∧ encode i = p) :
    Row.Sound ⟨0xFFFF, p, fun _ => i⟩ := by
  intro w hw
  have hwp : w = p := BitVec.and_allOnes.symm.trans (beq_iff_eq.1 hw)
  exact hwp ▸ hi

theorem sound_rowNNN {p : Word} {c : Imm12 → Instr} (hp : p = packNNN (opField p) 0)
    (hc : ∀ nnn, (c nnn).hasRow = true ∧ encode (c nnn) = packNNN (opField p) nnn) : (rowNNN p c).Sound := by
  intro w hw
  have hop : opField w = opField p := opField_of_and ((beq_iff_eq.1 hw).trans hp)
  obtain ⟨hrow, henc⟩ := hc (nnnField w)
  exact ⟨hrow, henc.trans (packNNN_of_op hop)⟩

theorem sound_rowXKK {p : Word} {c : Nibble → Byte → Instr} (hp : p = packNNN (opField p) 0)
    (hc : ∀ x kk, (c x kk).hasRow = true ∧ encode (c x kk) = packXKK (opField p) x kk) : (rowXKK p c).Sound := by
  intro w hw
  have hop : opField w = opField p := opField_of_and ((beq_iff_eq.1 hw).trans hp)
  obtain ⟨hrow, henc⟩ := hc (xField w) (kkField w)
  exact ⟨hrow, henc.trans (packXKK_of_op hop)⟩

theorem sound_rowXY {p : Word} {c : Nibble → Nibble → Instr} (hp : p = packXYN (opField p) 0 0 (nField p))
    (hc : ∀ x y, (c x y).hasRow = true ∧ encode (c x y) = packXYN (opField p) x y (nField p)) : (rowXY p c).Sound := by
  intro w hw
  obtain ⟨hop, hn⟩ := opField_nField_of_and ((beq_iff_eq.1 hw).trans hp)
  obtain ⟨hrow, henc⟩ := hc (xField w) (yField w)
  exact ⟨hrow, henc.trans (packXYN_of_op_n hop hn)⟩

theorem sound_rowX {p : Word} {c : Nibble → Instr} (hp : p = packXKK (opField p) 0 (kkField p))
    (hc : ∀ x, (c x).hasRow = true ∧ encode (c x) = packXKK (opField p) x (kkField p)) : (rowX p c).Sound := by
  intro w hw
  obtain ⟨hop, hkk⟩ := opField_kkField_of_and ((beq_iff_eq.1 hw).trans hp)
  obtain ⟨hrow, henc⟩ := hc (xField w)
  exact ⟨hrow, henc.trans (packXKK_of_op_kk hop hkk)⟩

theorem sound_rowDrw : Row.Sound ⟨0xF000, 0xD000, fun w => .drw (xField w) (yField w) (nField w)⟩ := by
  intro w hw
  have hop : opField w = 0xD := opField_of_and (beq_iff_eq.1 hw)
  exact ⟨rfl, packXYN_of_op hop⟩

theorem rowsLow_sound : ∀ r ∈ rowsLow, r.Sound := by
  simp only [rowsLow, List.forall_mem_cons]
  exact ⟨sound_rowLiteral ⟨rfl, rfl⟩, sound_rowLiteral ⟨rfl, rfl⟩,
    sound_rowNNN rfl fun _ => ⟨rfl, rfl⟩, sound_rowNNN rfl fun _ => ⟨rfl, rfl⟩,
    sound_rowXKK rfl fun _ _ => ⟨rfl, rfl⟩, sound_rowXKK rfl fun _ _ => ⟨rfl, rfl⟩,
    sound_rowXY rfl fun _ _ => ⟨rfl, rfl⟩,
    sound_rowXKK rfl fun _ _ => ⟨rfl, rfl⟩, sound_rowXKK rfl fun _ _ => ⟨rfl, rfl⟩, List.forall_mem_nil _⟩

theorem rowsAlu_sound : ∀ r ∈ rowsAlu, r.Sound := by
  simp only [rowsAlu, List.forall_mem_cons]
  refine ⟨?_, ?_, ?_, ?_, ?_, ?_, ?_, ?_, ?_, List.forall_mem_nil _⟩ <;> exact sound_rowXY rfl fun _ _ => ⟨rfl, rfl⟩

theorem rowsHigh_sound : ∀ r ∈ rowsHigh, r.Sound := by
  simp only [rowsHigh, List.forall_mem_cons]
  exact ⟨sound_rowXY rfl fun _ _ => ⟨rfl, rfl⟩,
    sound_rowNNN rfl fun _ => ⟨rfl, rfl⟩, sound_rowNNN rfl fun _ => ⟨rfl, rfl⟩,
    sound_rowXKK rfl fun _ _ => ⟨rfl, rfl⟩, sound_rowDrw,
    sound_rowX rfl fun _ => ⟨rfl, rfl⟩, sound_rowX rfl fun _ => ⟨rfl, rfl⟩, sound_rowX rfl fun _ => ⟨rfl, rfl⟩,
    List.forall_mem_nil _⟩

theorem rowsStub_sound : ∀ r ∈ rowsStub, r.Sound := by
  simp only [rowsStub, List.forall_mem_cons]
  refine ⟨?_, ?_, ?_, ?_, ?_, ?_, ?_, List.forall_mem_nil _⟩ <;> exact sound_rowX rfl fun _ => ⟨rfl, rfl⟩

theorem rows_sound : ∀ r ∈ rows, r.Sound := by
  simp only [rows, List.forall_mem_append]
  exact ⟨⟨⟨rowsLow_sound, rowsAlu_sound⟩, rowsHigh_sound⟩, rowsStub_sound⟩

/-! ## The table of R76, by `op` -/

theorem unrecognized_op0 (h : opField w = 0x0) : unrecognized w = (w != 0x00E0 && w != 0x00EE) := by
  unfold opField at h; rw [unrecognized, h]; rfl

theorem unrecognized_op5_op9 (h : opField w = 0x5 ∨ opField w = 0x9) : unrecognized w = (nField w != 0) := by
  unfold opField at h; rcases h with h | h <;> rw [unrecognized, h] <;> rfl

theorem unrecognized_op8 (h : opField w = 0x8) :
    unrecognized w = [0x8, 0x9, 0xA, 0xB, 0xC, 0xD, 0xF].contains (nField w) := by
  unfold opField at h; rw [unrecognized, h]; rfl

theorem unrecognized_opE (h : opField w = 0xE) : unrecognized w = !([0x9E, 0xA1].contains (kkField w)) := by
  unfold opField at h; rw [unrecognized, h]; rfl

theorem unrecognized_opF (h : opField w = 0xF) :
    unrecognized w = !([0x07, 0x0A, 0x18, 0x1E, 0x29, 0x33, 0x55, 0x65].contains (kkField w)) := by
  unfold opField at h; rw [unrecognized, h]; rfl

theorem unrecognized_of_full_op (h : opField w ∈ [0x1, 0x2, 0x3, 0x4, 0x6, 0x7, 0xA, 0xB, 0xC, 0xD]) :
    unrecognized w = false := by
  unfold opField at h
  simp only [List.mem_cons, List.not_mem_nil, or_false] at h
  rcases h with h | h | h | h | h | h | h | h | h | h <;> rw [unrecognized, h] <;> rfl

theorem unrecognized_encode {i : Instr} (h : i.hasRow = true) : unrecognized (encode i) = false := by
  cases i
  case cls | ret => rfl
  case jp | call | ldI | jpb => exact unrecognized_of_full_op (by rw [encode, opField_packNNN]; decide)
  case seImm | sneImm | ldImm | addImm | rnd => exact unrecognized_of_full_op (by rw [encode, opField_packXKK]; decide)
  case drw => exact unrecognized_of_full_op (by rw [encode, opField_packXYN]; decide)
  case seReg => rw [encode, unrecognized_op5_op9 (.inl (opField_packXYN ..)), nField_packXYN]; rfl
  case sneReg => rw [encode, unrecognized_op5_op9 (.inr (opField_packXYN ..)), nField_packXYN]; rfl
  case ldReg | orReg | andReg | xorReg | addReg | subReg | shrReg | subnReg | shlReg =>
    rw [encode, unrecognized_op8 (opField_packXYN ..), nField_packXYN]; rfl
  case nopSkp | nopSknp => rw [encode, unrecognized_opE (opField_packXKK ..), kkField_packXKK]; rfl
  case addI | storeRegs | loadRegs | nopGetDt | nopKeyWait | nopBcd | nopFont | nopSetSt =>
    rw [encode, unrecognized_opF (opField_packXKK ..), kkField_packXKK]; rfl
  case haltUnrec => cases h

/-! ## The words R76 does not list -/

/-- The word of some instruction with a row of its own. -/
def Claimed (w : Word) : Prop := ∃ i : Instr, i.hasRow = true ∧ encode i = w

theorem claimed_op0 (h : opField w = 0x0) (hu : unrecognized w = false) : Claimed w := by
  have hw : w = 0x00E0 ∨ w = 0x00EE := by
    rw [unrecognized_op0 h, Bool.and_eq_false_iff] at hu
    simpa using hu
  rcases hw with rfl | rfl
  · exact ⟨.cls, rfl, rfl⟩
  · exact ⟨.ret, rfl, rfl⟩

theorem claimed_op8 (h : opField w = 0x8) (hu : unrecognized w = false) : Claimed w := by
  have hn : nField w ∈ [0x0, 0x1, 0x2, 0x3, 0x4, 0x5, 0x6, 0x7, 0xE] := by
    rw [unrecognized_op8 h] at hu
    revert hu; generalize nField w = n; revert n; decide
  simp only [List.mem_cons, List.not_mem_nil, or_false] at hn
  rcases hn with hn | hn | hn | hn | hn | hn | hn | hn | hn
  · exact ⟨.ldReg _ _, rfl, packXYN_of_op_n h hn⟩
  · exact ⟨.orReg _ _, rfl, packXYN_of_op_n h hn⟩
  · exact ⟨.andReg _ _, rfl, packXYN_of_op_n h hn⟩
  · exact ⟨.xorReg _ _, rfl, packXYN_of_op_n h hn⟩
  · exact ⟨.addReg _ _, rfl, packXYN_of_op_n h hn⟩
  · exact ⟨.subReg _ _, rfl, packXYN_of_op_n h hn⟩
  · exact ⟨.shrReg _ _, rfl, packXYN_of_op_n h hn⟩
  · exact ⟨.subnReg _ _, rfl, packXYN_of_op_n h hn⟩
  · exact ⟨.shlReg _ _, rfl, packXYN_of_op_n h hn⟩

theorem claimed_op5_op9 (h : opField w = 0x5 ∨ opField w = 0x9) (hu : unrecognized w = false) : Claimed w := by
  rw [unrecognized_op5_op9 h] at hu
  have hn : nField w = 0 := by simpa using hu
  rcases h with h | h
  · exact ⟨.seReg _ _, rfl, packXYN_of_op_n h hn⟩
  · exact ⟨.sneReg _ _, rfl, packXYN_of_op_n h hn⟩

theorem claimed_opE (h : opField w = 0xE) (hu : unrecognized w = false) : Claimed w := by
  rw [unrecognized_opE h] at hu
  simp only [Bool.not_eq_false', List.contains_iff_mem, List.mem_cons, List.not_mem_nil, or_false] at hu
  rcases hu with hkk | hkk
  · exact ⟨.nopSkp _, rfl, packXKK_of_op_kk h hkk⟩
  · exact ⟨.nopSknp _, rfl, packXKK_of_op_kk h hkk⟩

theorem claimed_opF (h : opField w = 0xF) (hu : unrecognized w = false) : Claimed w := by
  rw [unrecognized_opF h] at hu
  simp only [Bool.not_eq_false', List.contains_iff_mem, List.mem_cons, List.not_mem_nil, or_false] at hu
  rcases hu with hkk | hkk | hkk | hkk | hkk | hkk | hkk | hkk
  · exact ⟨.nopGetDt _, rfl, packXKK_of_op_kk h hkk⟩
  · exact ⟨.nopKeyWait _, rfl, packXKK_of_op_kk h hkk⟩
  · exact ⟨.nopSetSt _, rfl, packXKK_of_op_kk h hkk⟩
  · exact ⟨.addI _, rfl, packXKK_of_op_kk h hkk⟩
  · exact ⟨.nopFont _, rfl, packXKK_of_op_kk h hkk⟩
  · exact ⟨.nopBcd _, rfl, packXKK_of_op_kk h hkk⟩
  · exact ⟨.storeRegs _, rfl, packXKK_of_op_kk h hkk⟩
  · exact ⟨.loadRegs _, rfl, packXKK_of_op_kk h hkk⟩

/-- Every word that R76 does not list is claimed by a row. -/
theorem claimed_of_not_unrecognized (hu : unrecognized w = false) : Claimed w := by
  have hop : opField w ∈ [0x0, 0x1, 0x2, 0x3, 0x4, 0x5, 0x6, 0x7, 0x8, 0x9, 0xA, 0xB, 0xC, 0xD, 0xE, 0xF] := by
    generalize opField w = op; revert op; decide
  simp only [List.mem_cons, List.not_mem_nil, or_false] at hop
  rcases hop with h | h | h | h | h | h | h | h | h | h | h | h | h | h | h | h
  · exact claimed_op0 h hu
  · exact ⟨.jp _, rfl, packNNN_of_op h⟩
  · exact ⟨.call _, rfl, packNNN_of_op h⟩
  · exact ⟨.seImm _ _, rfl, packXKK_of_op h⟩
  · exact ⟨.sneImm _ _, rfl, packXKK_of_op h⟩
  · exact claimed_op5_op9 (.inl h) hu
  · exact ⟨.ldImm _ _, rfl, packXKK_of_op h⟩
  · exact ⟨.addImm _ _, rfl, packXKK_of_op h⟩
  · exact claimed_op8 h hu
  · exact claimed_op5_op9 (.inr h) hu
  · exact ⟨.ldI _, rfl, packNNN_of_op h⟩
  · exact ⟨.jpb _, rfl, packNNN_of_op h⟩
  · exact ⟨.rnd _ _, rfl, packXKK_of_op h⟩
  · exact ⟨.drw _ _ _, rfl, packXYN_of_op h⟩
  · exact claimed_opE h hu
  · exact claimed_opF h hu

/-! ## The obligations -/

/-- Settles O4: a word R76 does not list decodes to an instruction with a row of its own, and no instruction that a row
reads encodes to a word it lists. -/
theorem unrecognizedWordsExactly : Obligations.UnrecognizedWordsExactly := by
  intro w
  constructor
  · intro hd
    by_contra hu
    obtain ⟨i, hi, rfl⟩ := claimed_of_not_unrecognized (Bool.eq_false_iff.2 hu)
    rw [decodeWord_encode hi] at hd
    rw [hd, Instr.hasRow_haltUnrec] at hi
    cases hi
  · intro hu
    rcases decodeWord_cases w with ⟨r, hr, hw, -⟩ | ⟨-, hd⟩
    · obtain ⟨hrow, henc⟩ := rows_sound r hr w hw
      have hnot := unrecognized_encode hrow
      rw [henc, hu] at hnot
      cases hnot
    · exact hd

/-- Settles O3: a word hits a row, which is sound, or is one that R76 lists. -/
theorem encodeOfDecode : Obligations.EncodeOfDecode := by
  intro w
  rcases decodeWord_cases w with ⟨r, hr, hw, hd⟩ | ⟨-, hd⟩
  · obtain ⟨hrow, henc⟩ := rows_sound r hr w hw
    rw [hd]
    exact ⟨Instr.wf_of_hasRow hrow, henc⟩
  · have hu : unrecognized w = true := (unrecognizedWordsExactly w).1 hd
    rw [hd]
    exact ⟨hu, rfl⟩

theorem decodeWord_encode_of_wf {i : Instr} (h : i.wf = true) : decodeWord (encode i) = i := by
  cases i
  case haltUnrec w => exact (unrecognizedWordsExactly w).2 h
  all_goals exact decodeWord_encode rfl

theorem decode_encodeBytes (i : Instr) (rest : List Byte) :
    decode (encodeBytes i ++ rest) = .ok (decodeWord (encode i), rest) :=
  congrArg (fun w => Except.ok (decodeWord w, rest)) (wordOfBytes_split (encode i))

/-- Settles O2: the two bytes join to the instruction's word, which decodes to it. -/
theorem decodeOfEncode : Obligations.DecodeOfEncode := by
  intro i rest hi
  rw [decode_encodeBytes, decodeWord_encode_of_wf hi]

/-- Settles O1: 34 closed words, each decoded by running the decoder. -/
theorem writtenWordsDecode : Obligations.WrittenWordsDecode := by
  unfold Obligations.WrittenWordsDecode
  decide

end Sys2Proof
end

section
/-!
# The engine family (40_engine.md): the step, its failed fetch, the end of a run

First `step` by its cases: what it does for each value of `RUN`, whose turn it is, and how the engine's fetch ends. Then
the frame of what precedes the instruction, and that every instruction answers a next state.
-/

namespace Sys2Proof.Machine

open Sys2Proof.Safety

variable {s : State} {w : Word}

/-! ## The step by its cases (R90, R91, R94, R169) -/

theorem step_of_halted (hrun : s.run = .halted) : step s = .fault .halted := by
  rw [step, hrun]

theorem step_of_fatal (hrun : s.run = .fatal) : step s = .fault .fatal := by
  rw [step, hrun]

theorem step_of_running (hrun : s.run = .running) : step s = agentStep s.elapse := by
  rw [step, hrun]

theorem agentStep_of_request (hreq : s.timerReq = true) : agentStep s = .next s.serve := if_pos hreq

theorem agentStep_of_no_request (hreq : s.timerReq = false) : agentStep s = engineStep s.start :=
  if_neg (Bool.eq_false_iff.1 hreq)

/-- With the run on and no request pending, the engine steps after the ticks (R172). -/
theorem step_engine (hrun : s.run = .running) (hreq : s.timerReq = false) : step s = engineStep s.elapse.start :=
  (step_of_running hrun).trans (agentStep_of_no_request hreq)

theorem engineStep_of_fetch_ok (h : s.fetch = .ok w) : engineStep s = exec (decodeWord w) (s.emitTrace w) := by
  rw [engineStep, h]

theorem engineStep_of_fetch_error {e : State} (h : s.fetch = .error e) : engineStep s = .next e := by
  rw [engineStep, h]

/-- What stands before the fetch: the ticks, the step counter's advance, and the mark that the run has begun. -/
theorem onlyChanges_elapse_start (s : State) : onlyChanges [.timer, .events, .started] s s.elapse.start :=
  onlyChanges_comp (onlyChanges_elapse s) (onlyChanges_start _)

/-! ## A fetch outside memory (R91, R55, R201) -/

/-- A fetch that fails at `a` ends the run there: `INFO` holds `a`, and else only what stands before the fetch has
changed. -/
theorem step_of_fetch_violation (hrun : s.run = .running) (hreq : s.timerReq = false) {a : Nat} (hfit : a < 2 ^ 16)
    (hfetch : s.elapse.start.fetch = .error (s.elapse.start.violate a)) :
    ∃ t, step s = .next t ∧ raised .addressViolation a t ∧
      onlyChanges [.run, .timer, .started, .events] s t ∧ t.started = true ∧
      t.dt = (s.ticks (Config.ticksBefore s.events)).dt ∧ t.dtValid = s.dtValid ∧ t.timerReq = false ∧
      t.replies = s.replies := by
  refine ⟨s.elapse.start.violate a, ?_, ⟨rfl, rfl, violate_info_toNat _ hfit⟩, ?_, rfl, rfl, rfl, hreq, rfl⟩
  · rw [step_engine hrun hreq, engineStep_of_fetch_error hfetch]
  · exact onlyChanges_mono (by decide) (onlyChanges_comp (onlyChanges_elapse_start s) (onlyChanges_stop _ _ _ _))

/-- Settles O36: the first failing address is `PC` where `PC` lies outside memory, and the address after it where only
that does. -/
theorem fetchOutsideMemoryIsFatal : Obligations.FetchOutsideMemoryIsFatal := by
  intro s hrun hreq
  constructor
  · intro hpc
    exact step_of_fetch_violation hrun hreq s.pc.isLt (State.fetch_first_outside _ (Nat.not_lt.2 hpc))
  · intro hpc
    have hpc' : s.elapse.start.pc.toNat = 0xFFF := hpc
    have hfetch := s.elapse.start.fetch_second_outside (by rw [hpc']; decide) (by rw [hpc']; decide)
    rw [hpc'] at hfetch
    exact step_of_fetch_violation hrun hreq (by decide) hfetch

/-! ## Every instruction answers (R90, R206) -/

theorem finish_next (r : Except State State) : ∃ t, finish r = .next t := ⟨_, finish_eq r⟩

theorem skipIf_next (cond : Bool) (s : State) : ∃ t, skipIf cond s = .next t := ⟨_, skipIf_eq cond s⟩

/-- Every instruction answers a next state: those that can raise, the raise included. -/
theorem exec_next (i : Instr) (s : State) : ∃ t, exec i s = .next t := by
  cases i
  case ret =>
    simp only [exec, execRet]
    split
    · exact ⟨_, rfl⟩
    · exact ⟨_, jumpTo_eq _ _⟩
  case call =>
    simp only [exec, execCall]
    split
    · exact ⟨_, rfl⟩
    · exact ⟨_, jumpTo_eq _ _⟩
  case seImm | sneImm | seReg | sneReg => exact skipIf_next _ _
  case drw | storeRegs | loadRegs => exact finish_next _
  all_goals exact ⟨_, rfl⟩

theorem engineStep_next (s : State) : ∃ t, engineStep s = .next t := by
  cases hfetch : s.fetch with
  | ok w => rw [engineStep_of_fetch_ok hfetch]; exact exec_next _ _
  | error e => exact ⟨e, engineStep_of_fetch_error hfetch⟩

theorem agentStep_next (s : State) : ∃ t, agentStep s = .next t := by
  cases hreq : s.timerReq with
  | true => exact ⟨_, agentStep_of_request hreq⟩
  | false => rw [agentStep_of_no_request hreq]; exact engineStep_next _

/-- Settles O38: a step is the agent's, which serves a request, raises at the fetch or runs an instruction. -/
theorem everyInstructionAnswers : Obligations.EveryInstructionAnswers :=
  ⟨exec_next, fun s hrun => step_of_running hrun ▸ agentStep_next s.elapse⟩

/-! ## The decoded instruction (R91 to R94, R214) -/

/-- The trace after a fetch: the old one and, with the flag on, the word. -/
theorem State.emitTrace_trace_append (s : State) (w : Word) :
    (s.emitTrace w).trace = s.trace ++ (if s.cfg.traceFlag then [w] else []) := by
  cases h : s.cfg.traceFlag <;> simp [h]

/-- A fetch inside memory: the step runs the instruction its word decodes to, the word traced. -/
theorem step_of_fetch_inside (hrun : s.run = .running) (hreq : s.timerReq = false)
    (hpc : s.pc.toNat + 1 < Config.memSize) (hw : w = wordOfBytes (s.byteAt s.pc.toNat) (s.byteAt (s.pc.toNat + 1))) :
    step s = exec (decodeWord w) (s.elapse.start.emitTrace w) := by
  subst hw
  rw [step_engine hrun hreq]
  exact engineStep_of_fetch_ok (s.elapse.start.fetch_inside hpc)

/-- Settles O35: the two bytes decode as the word they form does. -/
theorem stepRunsDecodedInstruction : Obligations.StepRunsDecodedInstruction := by
  intro s i hrun hreq hpc hdecode _
  have hi : decodeWord (wordOfBytes (s.byteAt s.pc.toNat) (s.byteAt (s.pc.toNat + 1))) = i :=
    congrArg Prod.fst (Except.ok.inj hdecode)
  refine ⟨s.elapse.start.emitTrace (wordOfBytes (s.byteAt s.pc.toNat) (s.byteAt (s.pc.toNat + 1))),
    ?_, ?_, rfl, rfl, rfl, rfl, hreq, rfl, State.emitTrace_trace_append _ _⟩
  · rw [step_of_fetch_inside hrun hreq (Nat.lt_succ_of_le hpc) rfl, hi]
  · exact onlyChanges_mono (by decide) (onlyChanges_comp (onlyChanges_elapse_start s) (onlyChanges_emitTrace _ _))

/-! ## A run that is over (R175, R206) -/

theorem State.portOpen_of_ended (h : s.run ≠ .running) : s.portOpen = false := by
  simp [State.portOpen, h]

theorem State.portRequest_closed (h : s.portOpen = false) : s.portRequest = s := if_pos (by rw [h]; rfl)

theorem State.portReinitialise_closed (h : s.portOpen = false) (seed : Byte) : s.portReinitialise seed = s :=
  if_neg (Bool.eq_false_iff.1 h)

/-- Settles O37: the step faults by the value of `RUN`; the timer port is closed and the time for a load is over. -/
theorem endedRunStandsStill : Obligations.EndedRunStandsStill := by
  intro s
  refine ⟨step_of_halted, step_of_fatal, fun hended => ?_⟩
  have hport : s.portOpen = false := State.portOpen_of_ended hended
  exact ⟨State.portRequest_closed hport, State.portReinitialise_closed hport, State.load_after (.inl hended)⟩

end Sys2Proof.Machine
end

section
/-!
# The control-flow family (41_control_flow.md): return, jumps, call, skips

First what the entries of a stack with a top read, then the return and the call by their cases: each
either moves `PC` and one entry or ends the run with the stack kept. The jumps and the skips follow from the two ways an
instruction completes that they share.
-/

namespace Sys2Proof.Machine

open Sys2Proof.Safety

variable {s : State} {a : Word} {l : List Word}

/-! ## The entries of a stack with a top (R25), and the target of a jump (R73) -/

/-- The top entry is the last live one, `STK[SP-1]`. -/
theorem State.stk_top (h : s.stack = a :: l) : s.stk l.length = some a := by
  simp [State.stk, h]

/-- The entries under the top are those of the stack without it. -/
theorem State.stk_below_top (h : s.stack = a :: l) {k : Nat} (hk : k < l.length) : s.stk k = (s.popTo l).stk k := by
  simp [State.stk, h, List.getElem?_append_left, hk]

theorem State.sp_of_top (h : s.stack = a :: l) : s.sp = l.length + 1 := congrArg List.length h

theorem State.sp_eq_zero : s.sp = 0 ↔ s.stack = [] := List.length_eq_zero_iff

theorem State.stackFull_iff : s.stackFull = true ↔ s.cfg.stackDepth = some s.sp := decide_eq_true_iff

/-- The target of a jump or a call is `nnn` itself (R73). -/
theorem zextAddr_toNat (nnn : Imm12) : (zextAddr nnn).toNat = nnn.toNat :=
  BitVec.toNat_setWidth_of_le (by decide)

/-! ## Return and call by their cases (R106, R108, R202, R203) -/

theorem exec_ret_of_empty (h : s.stack = []) : exec .ret s = .next (s.raise .stackUnderflow 0) := by
  rw [exec, execRet, h]

theorem exec_ret_of_top (h : s.stack = a :: l) : exec .ret s = .next ((s.popTo l).setPc a) := by
  rw [exec, execRet, h]; exact jumpTo_eq _ _

theorem exec_call_of_full (nnn : Imm12) (h : s.cfg.stackDepth = some s.sp) :
    exec (.call nnn) s = .next (s.raise .stackOverflow s.pc) := if_pos (State.stackFull_iff.2 h)

theorem exec_call_of_room (nnn : Imm12) (h : s.cfg.stackDepth ≠ some s.sp) :
    exec (.call nnn) s = .next ((s.push s.pc).setPc (zextAddr nnn)) := if_neg (mt State.stackFull_iff.1 h)

/-- A raise writes the fault record and nothing else (R206). -/
theorem onlyChanges_raise (s : State) (c : Cause) (w : Word) : onlyChanges [.run] s (s.raise c w) :=
  onlyChanges_stop _ _ _ _

/-- Settles O6: the stack is empty, or its top entry is the address the return resumes at. -/
theorem returnPopsOrUnderflows : Obligations.ReturnPopsOrUnderflows := by
  refine ⟨decodeWord_encode (i := .ret) rfl, fun s => ⟨fun hsp => ?_, fun hsp => ?_⟩⟩
  · obtain ⟨top, rest, hs⟩ := List.exists_cons_of_ne_nil (mt State.sp_eq_zero.2 hsp)
    exact ⟨_, exec_ret_of_top hs, Nat.eq_sub_of_add_eq (State.sp_of_top hs).symm, State.stk_top hs,
      fun k hk => (State.stk_below_top hs hk).symm,
      onlyChanges_mono (by decide) (onlyChanges_comp (onlyChanges_popTo s rest) (onlyChanges_setPc _ top))⟩
  · exact ⟨_, exec_ret_of_empty (State.sp_eq_zero.1 hsp), ⟨rfl, rfl, rfl⟩, onlyChanges_raise _ _ _⟩

/-- Settles O9: with room the pushed entry is the new top over the old stack; without it the run ends. -/
theorem callPushesOwnAddressOrOverflows : Obligations.CallPushesOwnAddressOrOverflows := by
  refine fun nnn s => ⟨fun hroom => ?_, fun hfull => ?_⟩
  · have htop : ((s.push s.pc).setPc (zextAddr nnn)).stack = s.pc :: s.stack := rfl
    exact ⟨_, exec_call_of_room nnn hroom, zextAddr_toNat nnn, rfl, State.stk_top htop,
      fun k hk => State.stk_below_top htop hk,
      onlyChanges_mono (by decide) (onlyChanges_comp (onlyChanges_push s s.pc) (onlyChanges_setPc _ _))⟩
  · exact ⟨_, exec_call_of_full nnn hfull, ⟨rfl, rfl, rfl⟩, onlyChanges_raise _ _ _⟩

/-- Settles O10: the return pops the entry the call pushed, the address of the call itself (R236). -/
theorem callThenReturnIsReentry : Obligations.CallThenReturnIsReentry :=
  fun nnn s hroom => ⟨_, exec_call_of_room nnn hroom, exec_ret_of_top (a := s.pc) (l := s.stack) rfl⟩

/-! ## Jumps (R107, R109) -/

/-- A jump to an immediate target, which is all that `1nnn` and `Bnnn` do. -/
theorem jumpTo_zextAddr (nnn : Imm12) (s : State) :
    ∃ t, jumpTo (zextAddr nnn) s = .next t ∧ t.pc.toNat = nnn.toNat ∧ onlyChanges [.pc] s t :=
  ⟨_, jumpTo_eq _ s, zextAddr_toNat nnn, onlyChanges_setPc s _⟩

/-- Settles O7: the word has a row of its own, and the effect is the one jump. -/
theorem jumpSetsPc : Obligations.JumpSetsPc :=
  fun nnn => ⟨decodeWord_encode (i := .jp nnn) rfl, jumpTo_zextAddr nnn⟩

/-- Settles O8: both instructions are the one jump. -/
theorem plainJumpAddsNoRegister : Obligations.PlainJumpAddsNoRegister :=
  fun nnn s => ⟨jumpTo_zextAddr nnn s, rfl⟩

/-! ## Skips (R110 to R113) -/

theorem equalBytes_iff (b c : Byte) : equalBytes b c = true ↔ b = c := beq_iff_eq

theorem differBytes_iff (b c : Byte) : differBytes b c = true ↔ ¬ b = c := bne_iff_ne

/-- Where a skip ends, by what its condition says. -/
theorem skipIf_of_iff {cond : Bool} {p : Prop} [Decidable p] (h : cond = true ↔ p) (s : State) :
    ∃ t, skipIf cond s = .next t ∧ t.pc = (if p then s.pc + 4 else s.pc + 2) ∧ onlyChanges [.pc] s t := by
  refine ⟨_, skipIf_eq cond s, ?_, onlyChanges_setPc s _⟩
  have hpc : s.pc + 2 + 2 = s.pc + 4 := BitVec.add_assoc _ _ _
  simp only [State.setPc_pc, hpc, h]

/-- The skip of `3xkk` and `5xy0` (R110, R112). -/
theorem skipIf_equalBytes (b c : Byte) (s : State) :
    ∃ t, skipIf (equalBytes b c) s = .next t ∧ t.pc = (if b = c then s.pc + 4 else s.pc + 2) ∧
      onlyChanges [.pc] s t := skipIf_of_iff (equalBytes_iff b c) s

/-- The skip of `4xkk` and `9xy0`: the same two ends, exchanged (R111, R113). -/
theorem skipIf_differBytes (b c : Byte) (s : State) :
    ∃ t, skipIf (differBytes b c) s = .next t ∧ t.pc = (if b = c then s.pc + 2 else s.pc + 4) ∧
      onlyChanges [.pc] s t := by
  simpa only [ite_not] using skipIf_of_iff (differBytes_iff b c) s

/-- Settles O11: the two conditions compare `V[x]` with `kk`. -/
theorem immediateSkips : Obligations.ImmediateSkips := fun x kk s =>
  ⟨decodeWord_encode (i := .seImm x kk) rfl, decodeWord_encode (i := .sneImm x kk) rfl,
    skipIf_equalBytes (s.reg x) kk s, skipIf_differBytes (s.reg x) kk s⟩

/-- Settles O12: the two conditions compare `V[x]` with `V[y]`. -/
theorem registerSkips : Obligations.RegisterSkips := fun x y s =>
  ⟨skipIf_equalBytes (s.reg x) (s.reg y) s, skipIf_differBytes (s.reg x) (s.reg y) s⟩

end Sys2Proof.Machine
end

section
/-!
# The register family (42_register_alu.md): load, arithmetic, logic, random

First the 8-bit results as numbers, and the register a shift reads; then the one register write that every instruction of the
family is, with its frame. Each obligation says what value is written.
-/

namespace Sys2Proof.Machine

open Sys2Proof.Safety

/-! ## The 8-bit results, modulo 256 (R122), and the register a shift reads (D10) -/

theorem addBytes_toNat (a b : Byte) : (addBytes a b).toNat = (a.toNat + b.toNat) % 256 := BitVec.toNat_add a b

/-- The difference is taken on the integers: a borrow wraps into 0 to 255. -/
theorem subBytes_toNat (a b : Byte) : ((subBytes a b).toNat : Int) = ((a.toNat : Int) - b.toNat) % 256 := by
  rw [subBytes, BitVec.toNat_sub]
  omega

theorem shiftRightOne_toNat (a : Byte) : (shiftRightOne a).toNat = a.toNat / 2 := by
  rw [shiftRightOne, BitVec.toNat_ushiftRight, Nat.shiftRight_eq_div_pow, pow_one]

theorem shiftLeftOne_toNat (a : Byte) : (shiftLeftOne a).toNat = a.toNat * 2 % 256 := by
  rw [shiftLeftOne, BitVec.toNat_shiftLeft, Nat.shiftLeft_eq, pow_one]

/-- The register the shifts read is the one `SHIFT_SRC` names, for both values of the parameter. -/
theorem State.shiftOperand_eq {s : State} {x y src : Nibble}
    (h : s.cfg.shiftSrc = .x ∧ src = x ∨ s.cfg.shiftSrc = .y ∧ src = y) : s.shiftOperand x y = s.reg src := by
  obtain ⟨hcfg, rfl⟩ | ⟨hcfg, rfl⟩ := h <;> rw [State.shiftOperand, hcfg]

/-! ## The register write (R95, R122) -/

/-- What every instruction of the family does, `Cxkk` in the state after its draw: `V[x]` takes a value, of which `P` holds,
`PC` advances, and nothing else changes; VF only where it is `V[x]`. -/
theorem writeReg_next (P : Byte → Prop) {b : Byte} (hb : P b) (x : Nibble) (s : State) :
    ∃ t, writeReg x b s = .next t ∧ P (t.reg x) ∧ t.pc = s.pc + 2 ∧ regsKeptBut x s t ∧
      onlyChanges [.regs, .pc] s t := by
  refine ⟨_, writeReg_eq x b s, ?_, rfl, fun r hr => ?_,
    onlyChanges_comp (onlyChanges_setReg s x b) (onlyChanges_advance _)⟩
  · rwa [State.reg_advance, State.reg_setReg_self]
  · rw [State.reg_advance, State.reg_setReg, if_neg hr]

/-- Settles O13: the value is `kk`, or its sum with `V[x]`. -/
theorem immediateLoadAndAdd : Obligations.ImmediateLoadAndAdd := fun x kk s =>
  ⟨decodeWord_encode (i := .ldImm x kk) rfl, decodeWord_encode (i := .addImm x kk) rfl,
    writeReg_next (· = kk) rfl x s,
    writeReg_next (·.toNat = ((s.reg x).toNat + kk.toNat) % 256) (addBytes_toNat _ _) x s⟩

/-- Settles O14: the value is the copy, or the operation bit by bit. -/
theorem assignAndLogic : Obligations.AssignAndLogic := fun x y s =>
  ⟨writeReg_next (· = s.reg y) rfl x s,
    writeReg_next (fun v => ∀ k, v.getLsbD k = ((s.reg x).getLsbD k || (s.reg y).getLsbD k))
      (fun _ => BitVec.getLsbD_or) x s,
    writeReg_next (fun v => ∀ k, v.getLsbD k = ((s.reg x).getLsbD k && (s.reg y).getLsbD k))
      (fun _ => BitVec.getLsbD_and) x s,
    writeReg_next (fun v => ∀ k, v.getLsbD k = ((s.reg x).getLsbD k ^^ (s.reg y).getLsbD k))
      (fun _ => BitVec.getLsbD_xor) x s⟩

/-- Settles O15: `8xy5` and `8xy7` are one subtraction with the operands exchanged (D9). -/
theorem addAndSubtract : Obligations.AddAndSubtract := fun x y s =>
  ⟨writeReg_next (·.toNat = ((s.reg x).toNat + (s.reg y).toNat) % 256) (addBytes_toNat _ _) x s,
    writeReg_next (fun v => (v.toNat : Int) = (((s.reg x).toNat : Int) - (s.reg y).toNat) % 256)
      (subBytes_toNat _ _) x s,
    writeReg_next (fun v => (v.toNat : Int) = (((s.reg y).toNat : Int) - (s.reg x).toNat) % 256)
      (subBytes_toNat _ _) x s⟩

/-- Settles O16: the operand of both shifts is `V[src]`. -/
theorem shiftsByOne : Obligations.ShiftsByOne := by
  intro x y src s hsrc
  have hop : s.shiftOperand x y = s.reg src := State.shiftOperand_eq hsrc
  exact ⟨writeReg_next (·.toNat = (s.reg src).toNat / 2) (hop ▸ shiftRightOne_toNat _) x s,
    writeReg_next (·.toNat = (s.reg src).toNat * 2 % 256) (hop ▸ shiftLeftOne_toNat _) x s⟩

/-- Settles O17: the write happens in the state after the one draw, whose registers and `PC` are the old ones. -/
theorem randomMasksOneDraw : Obligations.RandomMasksOneDraw := by
  intro x kk s
  obtain ⟨t, hexec, hbits, hpc, hkept, hframe⟩ :=
    writeReg_next (fun v => ∀ k, v.getLsbD k = ((Config.randomByte s.draws).getLsbD k && kk.getLsbD k))
      (fun _ => BitVec.getLsbD_and) x s.drawn
  have hdraws : t.draws = s.draws + 1 := hframe .draws (by decide)
  exact ⟨t, hexec, hdraws, hbits, hpc, hkept,
    onlyChanges_mono (by decide) (onlyChanges_comp (onlyChanges_drawn s) hframe)⟩

end Sys2Proof.Machine
end

section
/-!
# The index and memory family (43_index_memory.md): the address register, the block transfers

`finish_transfer` says once how `Fx55` and `Fx65` complete: advanced where the block lies in memory, else stopped by the
first address outside it. What they have moved by then is read off the loop, by `byteAt_storeBlock` (a store's memory) and
`reg_loadBlock_eq` (a load's registers), for both endings at once.
-/

namespace Sys2Proof.Machine

open Sys2Proof.Safety

variable {s t : State} {ps : List Part} {body : Nat → State → Except State State}

/-! ## The address register (R140, R141) -/

/-- `I` takes a value, `PC` advances, and nothing else changes. -/
theorem done_setI (s : State) (a : Word) :
    ∃ t, done (s.setI a) = .next t ∧ t.i = a ∧ t.pc = s.pc + 2 ∧ onlyChanges [.i, .pc] s t :=
  ⟨_, done_eq _, rfl, rfl, onlyChanges_comp (onlyChanges_setI s a) (onlyChanges_advance _)⟩

/-- The sum of `Fx1E` wraps at 16 bits. -/
theorem add_zextByte_toNat (a : Word) (b : Byte) : (a + zextByte b).toNat = (a.toNat + b.toNat) % 65536 := by
  rw [BitVec.toNat_add, zextByte, BitVec.toNat_setWidth_of_le (by decide)]

/-- Settles O18: both words have a row of their own, and both instructions are one write of `I`. -/
theorem indexLoadAndAdd : Obligations.IndexLoadAndAdd := by
  refine ⟨fun nnn s => ⟨decodeWord_encode (i := .ldI nnn) rfl, ?_⟩,
    fun x s => ⟨decodeWord_encode (i := .addI x) rfl, ?_⟩⟩
  · obtain ⟨t, hexec, hi, hrest⟩ := done_setI s (zextAddr nnn)
    exact ⟨t, hexec, hi ▸ zextAddr_toNat nnn, hrest⟩
  · obtain ⟨t, hexec, hi, hrest⟩ := done_setI s (s.i + zextByte (s.reg x))
    exact ⟨t, hexec, hi ▸ add_zextByte_toNat s.i (s.reg x), hrest⟩

/-! ## How a block transfer completes (R63, R94, R201) -/

/-- The first address of a block that lies outside memory fits in `INFO`. -/
theorem raised_violate_block (s t : State) :
    raised .addressViolation (max s.i.toNat 0x1000) (t.violate (max s.i.toNat Config.memSize)) :=
  ⟨rfl, rfl, violate_info_toNat t (max_lt s.i.isLt (by decide))⟩

/-- A transfer of `V[0]` to `V[x]`, given how its loop ends: `storeBlock_cases`, `loadBlock_cases`. -/
theorem finish_transfer (hpc : .pc ∉ ps) {x : Nibble} {r : Except State State}
    (hloop : ∃ u, u.i = s.i ∧ onlyChanges ps s u ∧
      ((x.toNat + 1 = 0 ∨ s.i.toNat + (x.toNat + 1) ≤ Config.memSize) ∧ r = .ok u ∨
       Config.memSize < s.i.toNat + (x.toNat + 1) ∧ r = .error (u.violate (max s.i.toNat Config.memSize)))) :
    ∃ t, finish r = .next t ∧
      (s.i.toNat + x.toNat ≤ 0xFFF → t.pc = s.pc + 2 ∧ onlyChanges (ps ++ [.pc]) s t) ∧
      (0xFFF < s.i.toNat + x.toNat →
        raised .addressViolation (max s.i.toNat 0x1000) t ∧ onlyChanges (ps ++ [.run]) s t) := by
  have hsize : Config.memSize = 0x1000 := rfl
  obtain ⟨u, -, hu, ⟨hin, rfl⟩ | ⟨hout, rfl⟩⟩ := hloop
  · exact ⟨_, finish_ok u,
      fun _ => ⟨congrArg (· + 2) (hu .pc hpc), onlyChanges_comp hu (onlyChanges_advance u)⟩, fun h => by omega⟩
  · exact ⟨_, finish_error _, fun h => by omega,
      fun _ => ⟨raised_violate_block s u, onlyChanges_comp hu (onlyChanges_stop u _ _ _)⟩⟩

/-- The advance and the raise keep memory: it is what the loop left. -/
theorem byteAt_of_finish {r : Except State State} (h : finish r = .next t) (a : Nat) :
    t.byteAt a = (endState r).byteAt a := by
  cases r <;> cases h <;> rfl

/-- The last turn of a loop that has not been abandoned. -/
theorem forEach_range_succ_ok {n : Nat} (h : forEach body (List.range n) s = .ok t) :
    forEach body (List.range (n + 1)) s = body n t := by
  rw [List.range_succ, forEach_append, h]
  simp only [forEach_cons, forEach_nil]
  cases body n t <;> rfl

/-- An abandoned loop takes no further turn. -/
theorem forEach_range_succ_error {n : Nat} (h : forEach body (List.range n) s = .error t) :
    forEach body (List.range (n + 1)) s = .error t := by
  rw [List.range_succ, forEach_append, h]

/-! ## The block store (R143) -/

/-- The addresses of the block inside memory hold their registers, whether or not the block leaves memory. -/
theorem byteAt_exec_storeRegs {x : Nibble} (h : exec (.storeRegs x) s = .next t) (a : Nat) :
    t.byteAt a = if s.i.toNat ≤ a ∧ a < s.i.toNat + (x.toNat + 1) ∧ a < Config.memSize then
      s.reg (BitVec.ofNat 4 (a - s.i.toNat)) else s.byteAt a :=
  (byteAt_of_finish h a).trans (byteAt_storeBlock _ s a)

theorem byteAt_exec_storeRegs_block {x k : Nibble} (h : exec (.storeRegs x) s = .next t) (hk : k.toNat ≤ x.toNat)
    (hin : s.i.toNat + k.toNat ≤ 0xFFF) : t.byteAt (s.i.toNat + k.toNat) = s.reg k := by
  have hblock : s.i.toNat + k.toNat < Config.memSize := Nat.lt_succ_of_le hin
  rw [byteAt_exec_storeRegs h, if_pos (by omega), Nat.add_sub_cancel_left, BitVec.ofNat_toNat, BitVec.setWidth_eq]

theorem byteAt_exec_storeRegs_outside {x : Nibble} (h : exec (.storeRegs x) s = .next t) {a : Nat}
    (ha : a < s.i.toNat ∨ s.i.toNat + x.toNat < a ∨ 0xFFF < a) : t.byteAt a = s.byteAt a := by
  have hsize : Config.memSize = 0x1000 := rfl
  rw [byteAt_exec_storeRegs h, if_neg (by omega)]

/-- Settles O19: the bytes by what a block store leaves in memory, the rest by how a transfer completes. -/
theorem blockStore : Obligations.BlockStore := by
  intro x s
  obtain ⟨t, hexec, hin, hout⟩ : ∃ t, exec (.storeRegs x) s = .next t ∧ _ :=
    finish_transfer (by decide) (storeBlock_cases (x.toNat + 1) s)
  refine ⟨fun h => ?_, fun h => ?_⟩
  · obtain ⟨hpc, hframe⟩ := hin h
    exact ⟨t, hexec, fun k hk => byteAt_exec_storeRegs_block hexec hk (by omega),
      fun a ha => byteAt_exec_storeRegs_outside hexec (by omega), hpc, onlyChanges_mono (by decide) hframe⟩
  · obtain ⟨hraised, hframe⟩ := hout h
    exact ⟨t, hexec, hraised, fun k hk => byteAt_exec_storeRegs_block hexec hk,
      fun a ha => byteAt_exec_storeRegs_outside hexec (by omega), hframe⟩

/-! ## The block load (R144) -/

theorem loadOne_inside {k : Nat} (hk : s.dataAddr k < Config.memSize) :
    loadOne k s = .ok (s.setReg (BitVec.ofNat 4 k) (s.byteAt (s.dataAddr k))) := by
  rw [loadOne, s.memRead_inside hk]

theorem loadOne_outside {k : Nat} (hk : ¬ s.dataAddr k < Config.memSize) :
    loadOne k s = .error (s.violate (s.dataAddr k)) := by
  rw [loadOne, s.memRead_outside hk]

/-- How a block load ends: done, or abandoned at the first address outside memory. -/
theorem loadBlock_cases (n : Nat) (s : State) :
    ∃ t, t.i = s.i ∧ onlyChanges [.regs] s t ∧
      ((n = 0 ∨ s.i.toNat + n ≤ Config.memSize) ∧ forEach loadOne (List.range n) s = .ok t ∨
       Config.memSize < s.i.toNat + n ∧
         forEach loadOne (List.range n) s = .error (t.violate (max s.i.toNat Config.memSize))) :=
  forEach_data (onlyChanges_refl _) onlyChanges_trans
    (fun _ _ hk => ⟨_, loadOne_inside hk, rfl, onlyChanges_setReg _ _ _⟩) (fun _ _ hk => loadOne_outside hk) n s

/-- One transfer writes its own register where its address lies in memory, and no other. -/
theorem reg_loadOne_eq {k : Nat} (hk : k < 16) (s : State) (r : Nibble) :
    (endState (loadOne k s)).reg r =
      if r.toNat = k ∧ s.dataAddr k < Config.memSize then s.byteAt (s.dataAddr k) else s.reg r := by
  have hr : r = BitVec.ofNat 4 k ↔ r.toNat = k := by
    rw [← BitVec.toNat_inj, BitVec.toNat_ofNat, Nat.mod_eq_of_lt hk]
  by_cases hin : s.dataAddr k < Config.memSize
  · rw [loadOne_inside hin, endState, State.reg_setReg]
    exact if_congr (by rw [hr, and_iff_left hin]) rfl rfl
  · rw [loadOne_outside hin, if_neg fun h => hin h.2]
    rfl

/-- Every register whose address lies in the block and inside memory holds that byte, every other what it held. There are
16 turns at most: a turn beyond would write `V[0]` again. -/
theorem reg_loadBlock_eq {n : Nat} (hn : n ≤ 16) (s : State) (r : Nibble) :
    (endState (forEach loadOne (List.range n) s)).reg r =
      if r.toNat < n ∧ s.i.toNat + r.toNat < Config.memSize then s.byteAt (s.i.toNat + r.toNat) else s.reg r := by
  induction n with
  | zero => rw [if_neg (by omega)]; rfl
  | succ n ih =>
    have ih := ih (by omega)
    obtain ⟨t, hi, hframe, ⟨-, hloop⟩ | ⟨hout, hloop⟩⟩ := loadBlock_cases n s
    · have hbyte : t.byteAt (s.i.toNat + n) = s.byteAt (s.i.toNat + n) := hframe .mem (by decide) _
      rw [hloop, endState] at ih
      rw [forEach_range_succ_ok hloop, reg_loadOne_eq (by omega), ih, State.dataAddr, hi, hbyte]
      by_cases hr : r.toNat = n
      · simp [hr]
      · simp only [hr, false_and, if_false]
        exact if_congr (by omega) rfl rfl
    · rw [forEach_range_succ_error hloop]
      rw [hloop] at ih
      exact ih.trans (if_congr (by omega) rfl rfl)

/-- Settles O20: the registers by `reg_loadBlock_eq`, the rest by how a transfer completes. -/
theorem blockLoad : Obligations.BlockLoad := by
  intro x s
  obtain ⟨t, hexec, hin, hout⟩ : ∃ t, exec (.loadRegs x) s = .next t ∧ _ :=
    finish_transfer (by decide) (loadBlock_cases (x.toNat + 1) s)
  have hreg (k : Nibble) := (reg_of_finish hexec k).trans (reg_loadBlock_eq x.isLt s k)
  have hsize : Config.memSize = 0x1000 := rfl
  refine ⟨fun h => ?_, fun h => ?_⟩
  · obtain ⟨hpc, hframe⟩ := hin h
    exact ⟨t, hexec, fun k => (hreg k).trans (if_congr (by omega) rfl rfl), hpc, hframe⟩
  · obtain ⟨hraised, hframe⟩ := hout h
    exact ⟨t, hexec, hraised, fun k => (hreg k).trans (if_congr (by omega) rfl rfl), hframe⟩

/-! ## The round trip (R143, R144) -/

/-- Settles O21: the store keeps `I`, so the load reads the block that holds the stored registers. -/
theorem storeThenLoadRestores : Obligations.StoreThenLoadRestores := by
  intro x s hblock
  obtain ⟨t, hstore, hbyte, -, -, hframe⟩ := (blockStore x s).1 hblock
  have hi : t.i = s.i := hframe .i (by decide)
  refine ⟨t, hstore, fun v => ?_⟩
  obtain ⟨u, hload, hreg, -, -⟩ := (blockLoad x { t with v := v }).1 (by rwa [hi])
  refine ⟨u, hload, fun k hk => ?_⟩
  rw [hreg, if_pos hk, hi]
  exact hbyte k hk

end Sys2Proof.Machine
end

section
/-!
# The display family (44_display.md): clear, sprite draw, the command stream

A sprite is the list of pixels under its set bits, in the order they are drawn; no pixel stands in it twice, so flipping
them one by one inverts each once. `drawRows_inside` and `drawRows_outside` say that the rows of `Dxyn` flip that list.
-/

namespace Sys2Proof.Machine

open Sys2Proof.Safety

variable {s t : State} {vx vy : Byte} {n : Nat}

/-! ## The command stream (R151) -/

/-- One more command acts on the grid the stream before it leaves. -/
theorem replay_concat (cmds : List DisplayCmd) (c : DisplayCmd) : replay (cmds ++ [c]) = applyCmd (replay cmds) c :=
  List.foldl_concat _ _ _ _

/-- `t`'s screen matches its stream if `s`'s does. -/
def keepsScreenMatching (s t : State) : Prop := screenMatchesStream s → screenMatchesStream t

theorem keepsScreenMatching_of_sameAt (h : sameAt s t .screen) : keepsScreenMatching s t := by
  obtain ⟨hfb, hdisplay⟩ := h
  intro hs
  rw [screenMatchesStream, hfb, hdisplay]
  exact hs

/-- A command emitted with its own effect on the screen. -/
theorem keepsScreenMatching_of_cmd (c : DisplayCmd) (hfb : t.fb = applyCmd s.fb c)
    (hdisplay : t.display = s.display ++ [c]) : keepsScreenMatching s t := by
  intro hs
  rw [screenMatchesStream, hfb, hdisplay, replay_concat, ← hs]

theorem respects_keepsScreenMatching : Respects keepsScreenMatching where
  refl _ := id
  trans h h' := h' ∘ h
  setReg _ _ _ := keepsScreenMatching_of_sameAt ⟨rfl, rfl⟩
  setI _ _ := keepsScreenMatching_of_sameAt ⟨rfl, rfl⟩
  setPc _ _ := keepsScreenMatching_of_sameAt ⟨rfl, rfl⟩
  push _ _ _ := keepsScreenMatching_of_sameAt ⟨rfl, rfl⟩
  popTo _ _ _ _ := keepsScreenMatching_of_sameAt ⟨rfl, rfl⟩
  fatal _ _ _ _ := keepsScreenMatching_of_sameAt ⟨rfl, rfl⟩
  halt _ _ := keepsScreenMatching_of_sameAt ⟨rfl, rfl⟩
  putByte _ _ _ _ := keepsScreenMatching_of_sameAt ⟨rfl, rfl⟩
  flipPixel s r c := keepsScreenMatching_of_cmd (.setPixel c r (!s.pixel r c) s.cfg.scale) rfl rfl
  clearScreen _ := keepsScreenMatching_of_cmd .clear rfl rfl
  present _ := keepsScreenMatching_of_cmd .present rfl rfl
  emitDiag _ _ := keepsScreenMatching_of_sameAt ⟨rfl, rfl⟩
  drawn _ := keepsScreenMatching_of_sameAt ⟨rfl, rfl⟩

/-- Settles O47: an update that touches the screen emits the one command whose effect it has. -/
theorem stepKeepsScreenMatchingStream : Obligations.StepKeepsScreenMatchingStream := fun _ _ hs h =>
  respects_keepsScreenMatching.step (fun _ => keepsScreenMatching_of_sameAt ⟨rfl, rfl⟩)
    (fun _ => keepsScreenMatching_of_sameAt ⟨rfl, rfl⟩) (fun _ => keepsScreenMatching_of_sameAt ⟨rfl, rfl⟩)
    (fun _ _ => keepsScreenMatching_of_sameAt ⟨rfl, rfl⟩) h hs

/-! ## Clear (R152) -/

/-- Settles O23. -/
theorem clearBlanksScreen : Obligations.ClearBlanksScreen := fun s =>
  ⟨s.clearScreen.advance, done_eq _, Screen.get_blank, rfl, rfl,
    onlyChanges_mono (by decide) (onlyChanges_comp (onlyChanges_clearScreen s) (onlyChanges_advance _))⟩

/-! ## Flipping a list of pixels (R155) -/

/-- The pixels of a list, each a row and a column, flipped one after another. -/
def State.flipAll (s : State) (px : List (Fin 32 × Fin 64)) : State := px.foldl (fun s p => s.flipPixel p.1 p.2) s

/-- The command that flipping a pixel emits. -/
def State.flipCmd (s : State) (p : Fin 32 × Fin 64) : DisplayCmd :=
  .setPixel p.2 p.1 (!s.pixel p.1 p.2) s.cfg.scale

theorem State.flipAll_cons (s : State) (p : Fin 32 × Fin 64) (px : List (Fin 32 × Fin 64)) :
    s.flipAll (p :: px) = (s.flipPixel p.1 p.2).flipAll px := rfl

theorem State.flipAll_append (s : State) (px px' : List (Fin 32 × Fin 64)) :
    s.flipAll (px ++ px') = (s.flipAll px).flipAll px' := List.foldl_append

theorem onlyChanges_flipAll (s : State) (px : List (Fin 32 × Fin 64)) : onlyChanges [.screen] s (s.flipAll px) :=
  List.foldlRecOn px _ (onlyChanges_refl _ s) fun _ h p _ => onlyChanges_trans h (onlyChanges_flipPixel _ p.1 p.2)

/-- A pixel flipped shows the opposite, every other what it did. -/
theorem State.pixel_flipPixel_pair (s : State) (p q : Fin 32 × Fin 64) :
    (s.flipPixel p.1 p.2).pixel q.1 q.2 = if q = p then !s.pixel q.1 q.2 else s.pixel q.1 q.2 :=
  (s.pixel_flipPixel _ _ _ _).trans (if_congr Prod.ext_iff.symm rfl rfl)

/-- The pixels of a list without repetition are each inverted once. -/
theorem State.pixel_flipAll {px : List (Fin 32 × Fin 64)} (hpx : px.Nodup) (s : State) (q : Fin 32 × Fin 64) :
    (s.flipAll px).pixel q.1 q.2 = if q ∈ px then !s.pixel q.1 q.2 else s.pixel q.1 q.2 := by
  induction px generalizing s with
  | nil => rfl
  | cons p px ih =>
    obtain ⟨hp, hpx⟩ := List.nodup_cons.1 hpx
    rw [State.flipAll_cons, ih hpx, State.pixel_flipPixel_pair]
    by_cases hq : q = p
    · subst hq; simp [hp]
    · simp [hq]

/-- Without repetition, the value each command carries is the opposite of what the pixel showed at the start. -/
theorem State.flipAll_display {px : List (Fin 32 × Fin 64)} (hpx : px.Nodup) (s : State) :
    (s.flipAll px).display = s.display ++ px.map s.flipCmd := by
  induction px generalizing s with
  | nil => exact (List.append_nil _).symm
  | cons p px ih =>
    obtain ⟨hp, hpx⟩ := List.nodup_cons.1 hpx
    have hcmd : px.map (s.flipPixel p.1 p.2).flipCmd = px.map s.flipCmd := by
      refine List.map_congr_left fun q hq => ?_
      rw [State.flipCmd, State.pixel_flipPixel_pair, if_neg (by rintro rfl; exact hp hq)]
      rfl
    rw [State.flipAll_cons, ih hpx, hcmd, State.flipPixel_display, List.append_assoc]
    rfl

/-! ## The pixels of a sprite (R153, R154) -/

/-- The pixels under the set bits of one row, most significant first. -/
def rowPixels (s : State) (vx vy : Byte) (row : Nat) : List (Fin 32 × Fin 64) :=
  ((List.range 8).filter (spriteSet s row)).map fun col => (spriteRow vy row, spriteCol vx col)

/-- The pixels under the set bits of the first `n` rows, rows ascending. -/
def spritePixels (s : State) (vx vy : Byte) (n : Nat) : List (Fin 32 × Fin 64) :=
  (List.range n).flatMap (rowPixels s vx vy)

theorem spritePixels_succ (s : State) (vx vy : Byte) (n : Nat) :
    spritePixels s vx vy (n + 1) = spritePixels s vx vy n ++ rowPixels s vx vy n := by
  simp [spritePixels, List.range_succ]

theorem mem_rowPixels {row : Nat} {p : Fin 32 × Fin 64} :
    p ∈ rowPixels s vx vy row ↔ ∃ col < 8, spriteSet s row col = true ∧ (spriteRow vy row, spriteCol vx col) = p := by
  simp [rowPixels, and_assoc]

theorem mem_spritePixels {p : Fin 32 × Fin 64} : p ∈ spritePixels s vx vy n ↔ covered s vx vy n p.1 p.2 := by
  simp only [spritePixels, List.mem_flatMap, List.mem_range, mem_rowPixels, covered, spriteRow, spriteCol, Prod.ext_iff,
    Fin.ext_iff, eq_comm, and_comm]

/-- 32 rows or fewer do not wrap onto each other. -/
theorem spriteRow_ne {row row' : Nat} (hrow : row < 32) (hrow' : row' < 32) (hne : row ≠ row') :
    spriteRow vy row ≠ spriteRow vy row' := by
  simp only [spriteRow, ne_eq, Fin.mk.injEq]
  omega

/-- The 8 columns do not wrap onto each other. -/
theorem spriteCol_inj {col col' : Nat} (hcol : col < 8) (hcol' : col' < 8) (h : spriteCol vx col = spriteCol vx col') :
    col = col' := by
  simp only [spriteCol, Fin.mk.injEq] at h
  omega

theorem nodup_rowPixels (s : State) (vx vy : Byte) (row : Nat) : (rowPixels s vx vy row).Nodup := by
  refine (List.nodup_range.filter _).map_on fun col hcol col' hcol' h => ?_
  exact spriteCol_inj (List.mem_range.1 (List.mem_of_mem_filter hcol)) (List.mem_range.1 (List.mem_of_mem_filter hcol'))
    (congrArg Prod.snd h)

theorem nodup_spritePixels (hn : n ≤ 32) (s : State) (vx vy : Byte) : (spritePixels s vx vy n).Nodup := by
  refine List.nodup_flatMap.2 ⟨fun row _ => nodup_rowPixels s vx vy row, ?_⟩
  refine List.nodup_range.imp_of_mem fun hrow hrow' hne p hp hp' => ?_
  obtain ⟨_, -, -, rfl⟩ := mem_rowPixels.1 hp
  obtain ⟨_, -, -, heq⟩ := mem_rowPixels.1 hp'
  exact spriteRow_ne ((List.mem_range.1 hrow).trans_le hn) ((List.mem_range.1 hrow').trans_le hn) hne
    (congrArg Prod.fst heq).symm

theorem spriteCmds_eq (s : State) (vx vy : Byte) (n : Nat) :
    spriteCmds s vx vy n = (spritePixels s vx vy n).map s.flipCmd := by
  simp only [spriteCmds, spritePixels, rowPixels, List.map_flatMap, List.map_map]
  rfl

/-- The first `n` rows drawn show the covered pixels inverted and every other as it was, with the commands emitted. -/
theorem flipAll_spritePixels (hn : n ≤ 32) (s : State) (vx vy : Byte) :
    (∀ r c, covered s vx vy n r c → (s.flipAll (spritePixels s vx vy n)).pixel r c = !s.pixel r c) ∧
    (∀ r c, ¬ covered s vx vy n r c → (s.flipAll (spritePixels s vx vy n)).pixel r c = s.pixel r c) ∧
    (s.flipAll (spritePixels s vx vy n)).display = s.display ++ spriteCmds s vx vy n := by
  have hnodup : (spritePixels s vx vy n).Nodup := nodup_spritePixels hn s vx vy
  refine ⟨fun r c h => ?_, fun r c h => ?_, spriteCmds_eq s vx vy n ▸ State.flipAll_display hnodup s⟩
  · exact (State.pixel_flipAll hnodup s (r, c)).trans (if_pos (mem_spritePixels.2 h))
  · exact (State.pixel_flipAll hnodup s (r, c)).trans (if_neg (mt mem_spritePixels.1 h))

/-! ## The rows of `Dxyn` (R153, R63) -/

/-- The bits of one row flip the row's pixels. -/
theorem drawBits_eq (vx vy : Byte) (row : Nat) (s t : State) :
    drawBits vx vy (s.byteAt (s.i.toNat + row)) row t = t.flipAll (rowPixels s vx vy row) := by
  rw [State.flipAll, rowPixels, List.foldl_map, List.foldl_filter]
  rfl

theorem drawRow_outside {row : Nat} (h : ¬ s.dataAddr row < Config.memSize) :
    drawRow vx vy row s = .error (s.violate (s.dataAddr row)) := by
  rw [drawRow, s.memRead_outside h]

/-- A row inside memory, in a state that has drawn on `s`'s screen alone: its byte is the one `s` has. -/
theorem drawRow_inside {row : Nat} (hframe : onlyChanges [.screen] s t) (h : s.i.toNat + row < Config.memSize) :
    drawRow vx vy row t = .ok (t.flipAll (rowPixels s vx vy row)) := by
  have hi : t.i = s.i := hframe .i (by decide)
  have hbyte : t.byteAt (s.i.toNat + row) = s.byteAt (s.i.toNat + row) := hframe .mem (by decide) _
  rw [← drawBits_eq, drawRow, State.dataAddr, hi, t.memRead_inside h, hbyte]

/-- Rows inside memory are all drawn. -/
theorem drawRows_inside (vx vy : Byte) (h : n = 0 ∨ s.i.toNat + n ≤ Config.memSize) :
    forEach (drawRow vx vy) (List.range n) s = .ok (s.flipAll (spritePixels s vx vy n)) := by
  induction n with
  | zero => rfl
  | succ n ih =>
    rw [forEach_range_succ_ok (ih (by omega)), drawRow_inside (onlyChanges_flipAll s _) (by omega), spritePixels_succ,
      State.flipAll_append]

/-- Where a row lies outside memory, the rows before the first such are drawn and no other. -/
theorem drawRows_outside (vx vy : Byte) (hn : n ≠ 0) (h : Config.memSize < s.i.toNat + n) :
    forEach (drawRow vx vy) (List.range n) s =
      .error ((s.flipAll (spritePixels s vx vy (Config.memSize - s.i.toNat))).violate
        (max s.i.toNat Config.memSize)) := by
  obtain ⟨k, rfl⟩ : ∃ k, n = Config.memSize - s.i.toNat + k + 1 := Nat.exists_eq_add_of_lt (by omega)
  clear hn h
  induction k with
  | zero =>
    have hi : (s.flipAll (spritePixels s vx vy (Config.memSize - s.i.toNat))).i = s.i :=
      onlyChanges_flipAll s _ .i (by decide)
    have hfirst :
        (s.flipAll (spritePixels s vx vy (Config.memSize - s.i.toNat))).dataAddr (Config.memSize - s.i.toNat) =
          max s.i.toNat Config.memSize := by rw [State.dataAddr, hi]; omega
    have hout : ¬ max s.i.toNat Config.memSize < Config.memSize := Nat.not_lt.2 (le_max_right _ _)
    rw [Nat.add_zero, forEach_range_succ_ok (drawRows_inside vx vy (by omega)), drawRow_outside (hfirst ▸ hout), hfirst]
  | succ k ih => exact forEach_range_succ_error ih

/-! ## `Dxyn` (R153 to R155) -/

/-- All rows drawn: the frame is presented and `PC` advances. -/
theorem exec_drw_of_rows_ok {x y n : Nibble}
    (h : forEach (drawRow (s.reg x) (s.reg y)) (List.range n.toNat) s = .ok t) :
    exec (.drw x y n) s = .next (t.emit .present).advance :=
  (congrArg (finish ∘ presentFrame) h).trans (finish_ok _)

/-- A raise in a row is the end of the instruction. -/
theorem exec_drw_of_rows_error {x y n : Nibble}
    (h : forEach (drawRow (s.reg x) (s.reg y)) (List.range n.toNat) s = .error t) : exec (.drw x y n) s = .next t :=
  (congrArg (finish ∘ presentFrame) h).trans (finish_error _)

/-- Settles O24: the rows are drawn, the frame is presented, and `PC` advances. -/
theorem drawXorsSprite : Obligations.DrawXorsSprite := by
  intro x y n s hin
  have hrows := drawRows_inside (s.reg x) (s.reg y) (hin.imp_left (congrArg BitVec.toNat))
  obtain ⟨hcovered, hother, hdisplay⟩ := flipAll_spritePixels (n.isLt.le.trans (by decide)) s (s.reg x) (s.reg y)
  have hframe := onlyChanges_flipAll s (spritePixels s (s.reg x) (s.reg y) n.toNat)
  refine ⟨_, exec_drw_of_rows_ok hrows, hcovered, hother, ?_, ?_, ?_⟩
  · exact congrArg (· ++ [.present]) hdisplay
  · exact congrArg (· + 2) (hframe .pc (by decide))
  · exact onlyChanges_mono (by decide)
      (onlyChanges_comp (onlyChanges_trans hframe (onlyChanges_emit _ _)) (onlyChanges_advance _))

/-- Settles O25: the raise abandons the rows that are left, the `Present` and the advance. -/
theorem drawFaultKeepsDrawnRows : Obligations.DrawFaultKeepsDrawnRows := by
  intro x y n s hn hout
  have hrows := drawRows_outside (s.reg x) (s.reg y) (fun h => hn (BitVec.eq_of_toNat_eq h)) hout
  have hle : 0x1000 - s.i.toNat ≤ 32 := by have := n.isLt; omega
  obtain ⟨hcovered, hother, hdisplay⟩ := flipAll_spritePixels hle s (s.reg x) (s.reg y)
  exact ⟨_, exec_drw_of_rows_error hrows, raised_violate_block s _, hcovered, hother,
    hdisplay, onlyChanges_comp (onlyChanges_flipAll s _) (onlyChanges_stop _ _ _ _)⟩

/-- Which pixels a sprite covers is a matter of `I` and memory. -/
theorem covered_congr (hi : t.i = s.i) (hmem : sameAt s t .mem) (vx vy : Byte) (n : Nat) (r : Fin 32) (c : Fin 64) :
    covered t vx vy n r c ↔ covered s vx vy n r c := by
  have hbyte (a : Nat) : t.byteAt a = s.byteAt a := hmem a
  simp only [covered, spriteSet, hi, hbyte]

/-- Settles O26: the second draw inverts the same pixels back. -/
theorem drawTwiceErases : Obligations.DrawTwiceErases := by
  intro x y n s hin
  obtain ⟨t, hexec, hcovered, hother, -, -, hframe⟩ := drawXorsSprite x y n s hin
  have hi : t.i = s.i := hframe .i (by decide)
  have hreg (z : Nibble) : t.reg z = s.reg z := hframe .regs (by decide) z
  obtain ⟨u, hexec', hcovered', hother', -⟩ := drawXorsSprite x y n t (by rwa [hi])
  simp only [hreg, covered_congr hi (hframe .mem (by decide))] at hcovered' hother'
  refine ⟨t, u, hexec, hexec', Screen.ext fun r c => ?_⟩
  change u.pixel r c = s.pixel r c
  by_cases h : covered s (s.reg x) (s.reg y) n.toNat r c
  · rw [hcovered' r c h, hcovered r c h, Bool.not_not]
  · rw [hother' r c h, hother r c h]

end Sys2Proof.Machine
end

section
/-!
# The delay-timer family (45_delay_timer.md): the tick, the port, isolation

First the count after any number of ticks, as arithmetic, and the port's two operations by their cases. Then the
isolation of the timer: replacing its count and its initialised bit commutes with every operation an instruction is made
of, so with every instruction, and with the engine's step.
-/

namespace Sys2Proof.Machine

open Sys2Proof.Safety

variable {s : State} {p : Config.ZeroPolicy} {d : Byte}

/-! ## The count (R167, R168, R173) -/

theorem tickCount_of_ne_zero (h : d ≠ 0) : tickCount p d = d - 1 := if_pos (bne_iff_ne.2 h)

/-- Under `hold` the count goes down to zero and stays there, as subtraction on `Nat` does. -/
theorem tickCount_hold_toNat (d : Byte) : (tickCount .hold d).toNat = d.toNat - 1 := by
  by_cases h : d = 0
  · subst h; rfl
  · rw [tickCount_of_ne_zero h]; bv_omega

/-- Under `wrap` a tick is subtraction modulo 256 everywhere. -/
theorem tickCount_wrap (d : Byte) : tickCount .wrap d = d - 1 := by
  by_cases h : d = 0
  · subst h; rfl
  · exact tickCount_of_ne_zero h

theorem tickTimes_hold_toNat (k : Nat) (d : Byte) : (tickTimes .hold k d).toNat = d.toNat - k := by
  induction k generalizing d with
  | zero => rfl
  | succ k ih => rw [tickTimes, ih, tickCount_hold_toNat]; omega

theorem tickTimes_wrap_toNat (k : Nat) (d : Byte) :
    ((tickTimes .wrap k d).toNat : Int) = ((d.toNat : Int) - k) % 256 := by
  induction k generalizing d with
  | zero => have := d.isLt; rw [tickTimes]; omega
  | succ k ih =>
    have htick : ((d - 1).toNat : Int) = ((d.toNat : Int) - 1) % 256 := subBytes_toNat d 1
    rw [tickTimes, ih, tickCount_wrap, htick]
    omega

/-- As long as the count does not pass zero, the policy has no say. -/
theorem tickTimes_toNat_of_le {k : Nat} (h : k ≤ d.toNat) : (tickTimes p k d).toNat = d.toNat - k := by
  cases p with
  | hold => exact tickTimes_hold_toNat k d
  | wrap =>
    have hcount := tickTimes_wrap_toNat k d
    have := d.isLt
    omega

/-! ## The timer of a state: ticks and the port (R166 to R171) -/

theorem State.ticks_of_uninit (hvalid : s.dtValid = false) (k : Nat) : s.ticks k = s := by
  rw [State.ticks, if_neg (Bool.eq_false_iff.1 hvalid)]

theorem State.ticks_dt_of_valid (hvalid : s.dtValid = true) (k : Nat) :
    (s.ticks k).dt = tickTimes s.cfg.dtZeroPolicy k s.dt := if_pos hvalid

/-- A write to the timer's own fields, with nothing beside it. -/
theorem onlyChanges_timerFields (s : State) (valid : Bool) (d : Byte) (req : Bool) (replies : List Byte) :
    onlyChanges [.timer] s { s with dtValid := valid, dt := d, timerReq := req, replies := replies } := by
  intro p hp; cases p <;> simp_all [sameAt, State.byteAt, State.reg]

theorem State.portOpen_of_running (hrun : s.run = .running) (hreq : s.timerReq = false) : s.portOpen = true := by
  simp [State.portOpen, hrun, hreq]

theorem State.portReinitialise_open (hopen : s.portOpen = true) (seed : Byte) :
    s.portReinitialise seed = withTimer seed true s := if_pos hopen

/-- A request in UNINIT is answered with 0 at once. -/
theorem State.portRequest_uninit (hopen : s.portOpen = true) (hvalid : s.dtValid = false) :
    s.portRequest = { s with replies := s.replies ++ [0] } := by
  simp [State.portRequest, hopen, hvalid]

/-- A request in RUNNING pends. -/
theorem State.portRequest_valid (hopen : s.portOpen = true) (hvalid : s.dtValid = true) :
    s.portRequest = { s with timerReq := true } := by
  simp [State.portRequest, hopen, hvalid]

/-- A pending request is served by the step, after the ticks that come before it. -/
theorem step_of_request (hrun : s.run = .running) (hreq : s.timerReq = true) : step s = .next s.elapse.serve :=
  (step_of_running hrun).trans (agentStep_of_request hreq)

/-- Settles O29: the count by its value and the policy, the frame by that of any number of ticks. -/
theorem tickDecrements : Obligations.TickDecrements := by
  intro s
  refine ⟨fun hvalid => State.ticks_of_uninit hvalid 1, fun hvalid hne => ?_, fun hvalid hzero hhold => ?_,
    fun hvalid hzero hwrap => ?_, onlyChanges_ticks s 1, rfl, rfl, rfl⟩
  · have hpos : 1 ≤ s.dt.toNat := Nat.pos_of_ne_zero fun h => hne (BitVec.eq_of_toNat_eq h)
    rw [State.ticks_dt_of_valid hvalid, tickTimes_toNat_of_le hpos]
  · rw [State.ticks_dt_of_valid hvalid, hzero, hhold]; rfl
  · rw [State.ticks_dt_of_valid hvalid, hzero, hwrap]; rfl

/-- Settles O30: the served count is that of `k` ticks from the seed. -/
theorem replyAfterTicks : Obligations.ReplyAfterTicks := by
  intro s seed k hopen
  have hopen' : ((withTimer seed true s).ticks k).portOpen = true := hopen
  refine ⟨tickTimes s.cfg.dtZeroPolicy k seed, ?_, tickTimes_toNat_of_le, fun hlt hhold => ?_, fun _ hwrap => ?_⟩
  · rw [State.portReinitialise_open hopen, State.portRequest_valid hopen' rfl]
    rfl
  · rw [hhold]
    refine BitVec.eq_of_toNat_eq ?_
    rw [tickTimes_hold_toNat]
    exact Nat.sub_eq_zero_of_le hlt.le
  · rw [hwrap]
    exact tickTimes_wrap_toNat k seed

/-- Settles O31: the request answers at once in UNINIT, and pends for the next step in RUNNING. -/
theorem requestIsAnswered : Obligations.RequestIsAnswered := by
  intro s hrun hreq
  have hopen : s.portOpen = true := State.portOpen_of_running hrun hreq
  refine ⟨fun hvalid => ?_, fun hvalid => ?_⟩
  · rw [State.portRequest_uninit hopen hvalid]
    exact ⟨rfl, hreq, onlyChanges_timerFields s _ _ _ _, rfl, hvalid⟩
  · have hframe : onlyChanges [.timer] s { s with timerReq := true } := onlyChanges_timerFields s _ _ _ _
    rw [State.portRequest_valid hopen hvalid]
    exact ⟨_, step_of_request hrun rfl, rfl, hvalid, rfl, rfl, onlyChanges_mono (by decide)
      (onlyChanges_comp hframe (onlyChanges_comp (onlyChanges_elapse _) (onlyChanges_serve _)))⟩

/-- Settles O32: at an open port the operation is the write of the two fields. -/
theorem reinitialiseReplacesCount : Obligations.ReinitialiseReplacesCount := by
  intro s seed hrun hreq
  rw [State.portReinitialise_open (State.portOpen_of_running hrun hreq)]
  exact ⟨rfl, rfl, hreq, rfl, onlyChanges_timerFields s _ _ _ _⟩

/-- Settles O41: `DT_SEED` alone decides the timer's state after reset. -/
theorem timerAtReset : Obligations.TimerAtReset := by
  intro p
  refine ⟨fun hnone => ?_, fun seed hsome => ?_⟩
  · have hvalid : (State.resetWith p).dtValid = false := congrArg Option.isSome hnone
    exact ⟨hvalid, congrArg State.replies (State.portRequest_uninit (State.portOpen_of_running rfl rfl) hvalid)⟩
  · exact ⟨congrArg Option.isSome hsome, congrArg (Option.getD · 0) hsome⟩

/-! ## Isolation: what an instruction is made of (R174) -/

/-- Either end of a computation that may raise, with its state changed. -/
def mapEnds (f : State → State) : Except State State → Except State State
  | .ok s => .ok (f s)
  | .error e => .error (f e)

/-- A loop whose every turn commutes with a change of state commutes with it. -/
theorem forEach_commute {f : State → State} {body : Nat → State → Except State State}
    (hbody : ∀ k s, body k (f s) = mapEnds f (body k s)) (ks : List Nat) (s : State) :
    forEach body ks (f s) = mapEnds f (forEach body ks s) := by
  induction ks generalizing s with
  | nil => rfl
  | cons k ks ih =>
    rw [forEach_cons, forEach_cons, hbody]
    cases body k s with
    | ok t => exact ih t
    | error e => rfl

variable (d) (valid : Bool)

theorem presentFrame_withTimer (r : Except State State) :
    presentFrame (mapEnds (withTimer d valid) r) = mapEnds (withTimer d valid) (presentFrame r) := by
  cases r <;> rfl

theorem finish_withTimer (r : Except State State) :
    finish (mapEnds (withTimer d valid) r) = mapNext (withTimer d valid) (finish r) := by
  cases r <;> rfl

theorem skipIf_withTimer (cond : Bool) (s : State) :
    skipIf cond (withTimer d valid s) = mapNext (withTimer d valid) (skipIf cond s) := by
  cases cond <;> rfl

theorem storeOne_withTimer (k : Nat) (s : State) :
    storeOne k (withTimer d valid s) = mapEnds (withTimer d valid) (storeOne k s) := by
  rw [storeOne, storeOne]
  by_cases h : s.dataAddr k < Config.memSize
  · rw [s.memWrite_inside _ h]; exact State.memWrite_inside _ _ h
  · rw [s.memWrite_outside _ h]; exact State.memWrite_outside _ _ h

theorem loadOne_withTimer (k : Nat) (s : State) :
    loadOne k (withTimer d valid s) = mapEnds (withTimer d valid) (loadOne k s) := by
  by_cases h : s.dataAddr k < Config.memSize
  · rw [loadOne_inside h]; exact loadOne_inside h
  · rw [loadOne_outside h]; exact loadOne_outside h

theorem drawBits_withTimer (vx vy b : Byte) (row : Nat) (s : State) :
    drawBits vx vy b row (withTimer d valid s) = withTimer d valid (drawBits vx vy b row s) := by
  refine List.foldl_hom (withTimer d valid) fun t col => ?_
  rw [drawBit, drawBit]
  split <;> rfl

/-- A row inside memory draws the bits of its byte. -/
theorem drawRow_bits {vx vy : Byte} {row : Nat} (h : s.dataAddr row < Config.memSize) :
    drawRow vx vy row s = .ok (drawBits vx vy (s.byteAt (s.dataAddr row)) row s) := by
  rw [drawRow, s.memRead_inside h]

theorem drawRow_withTimer (vx vy : Byte) (row : Nat) (s : State) :
    drawRow vx vy row (withTimer d valid s) = mapEnds (withTimer d valid) (drawRow vx vy row s) := by
  by_cases h : s.dataAddr row < Config.memSize
  · rw [drawRow_bits h, drawRow_bits (s := withTimer d valid s) h]
    exact congrArg Except.ok (drawBits_withTimer d valid vx vy _ row s)
  · rw [drawRow_outside h]; exact drawRow_outside h

theorem State.fetch_withTimer (s : State) :
    (withTimer d valid s).fetch = s.fetch.mapError (withTimer d valid) := by
  by_cases h : s.pc.toNat < Config.memSize
  · by_cases h' : s.pc.toNat + 1 < Config.memSize
    · rw [s.fetch_inside h']; exact State.fetch_inside _ h'
    · rw [s.fetch_second_outside h h']; exact State.fetch_second_outside _ h h'
  · rw [s.fetch_first_outside h]; exact State.fetch_first_outside _ h

/-! ## Isolation: instructions and steps (R173, R174) -/

/-- Every instruction does with another timer what it does without, and keeps that timer. -/
theorem exec_withTimer (i : Instr) (s : State) :
    exec i (withTimer d valid s) = mapNext (withTimer d valid) (exec i s) := by
  cases i
  case ret =>
    cases h : s.stack with
    | nil => rw [exec_ret_of_empty h]; exact exec_ret_of_empty h
    | cons a l => rw [exec_ret_of_top h]; exact exec_ret_of_top h
  case call nnn =>
    by_cases h : s.cfg.stackDepth = some s.sp
    · rw [exec_call_of_full nnn h]; exact exec_call_of_full nnn h
    · rw [exec_call_of_room nnn h]; exact exec_call_of_room nnn h
  case seImm | sneImm | seReg | sneReg => exact skipIf_withTimer d valid _ s
  case drw x y n =>
    have hrows := forEach_commute (drawRow_withTimer d valid (s.reg x) (s.reg y)) (List.range n.toNat) s
    have hframe := (congrArg presentFrame hrows).trans (presentFrame_withTimer d valid _)
    exact (congrArg finish hframe).trans (finish_withTimer d valid _)
  case storeRegs x =>
    exact (congrArg finish (forEach_commute (storeOne_withTimer d valid) _ s)).trans (finish_withTimer d valid _)
  case loadRegs x =>
    exact (congrArg finish (forEach_commute (loadOne_withTimer d valid) _ s)).trans (finish_withTimer d valid _)
  all_goals rfl

/-- Settles O33: by the instruction, each made of operations that commute with a change of timer. -/
theorem instructionsIgnoreTimer : Obligations.InstructionsIgnoreTimer := fun i s d valid => exec_withTimer d valid i s

theorem engineStep_withTimer (s : State) :
    engineStep (withTimer d valid s) = mapNext (withTimer d valid) (engineStep s) := by
  have hfetch := State.fetch_withTimer d valid s
  cases h : s.fetch with
  | ok w =>
    rw [h] at hfetch
    rw [engineStep_of_fetch_ok h, engineStep_of_fetch_ok hfetch]
    exact exec_withTimer d valid _ (s.emitTrace w)
  | error e =>
    rw [h] at hfetch
    rw [engineStep_of_fetch_error h, engineStep_of_fetch_error hfetch]
    rfl

/-- A step with no request pending does with another timer what it does without; that timer's count has ticked and
nothing else of it has changed. -/
theorem step_withTimer (hrun : s.run = .running) (hreq : s.timerReq = false) :
    step (withTimer d valid s) = mapNext (withTimer (withTimer d valid s).elapse.dt valid) (step s) := by
  rw [step_engine hrun hreq, ← engineStep_withTimer]
  exact step_engine (s := withTimer d valid s) hrun hreq

/-- No step makes a request: the port does (R169, R211). -/
theorem step_timerReq {t : State} (h : step s = .next t) : t.timerReq = false := by
  obtain ⟨-, ⟨-, rfl⟩ | ⟨hreq, hfetch⟩ | ⟨hreq, w, -, hexec⟩⟩ := step_next_cases h
  · rfl
  · obtain ⟨a, -, -, rfl⟩ := State.fetch_error hfetch
    exact hreq
  · obtain ⟨-, -, hreq', -⟩ := exec_onlyChanges hexec .timer (timer_notMem_writes _)
    exact hreq'.trans hreq

/-- Settles O34: the engine's turn, which commutes with a change of timer. -/
theorem stepsIgnoreTimer : Obligations.StepsIgnoreTimer := by
  intro s t d valid hreq h
  obtain ⟨hrun, -⟩ := step_next_cases h
  have hstep := step_withTimer d valid hrun hreq
  rw [h] at hstep
  exact ⟨step_timerReq h, _, valid, hstep⟩

end Sys2Proof.Machine
end

section
/-!
# The stub family (46_stubs_unrecognized.md): the seven inert stubs, unrecognized words

Every stub is the one operation `stub` at the instruction's own word, so its effect and frame are proved once, of `stub`.
-/

namespace Sys2Proof.Machine

open Sys2Proof.Safety

/-- The common effect of the stubs (R185): no register, memory or key is looked at, so there is no case to tell apart. -/
theorem stub_next (w : Word) (s : State) :
    ∃ t, stub w s = .next t ∧ t.diag = s.diag ++ [w] ∧ t.pc = s.pc + 2 ∧ onlyChanges [.pc, .diag] s t :=
  ⟨_, stub_eq w s, s.emitDiag_diag w, rfl,
    onlyChanges_mono (by decide) (onlyChanges_comp (onlyChanges_emitDiag s w) (onlyChanges_advance _))⟩

/-- Each of the seven stubs emits its own word (R186 to R191, R193). -/
theorem exec_eq_stub {x : Nibble} {i : Instr} (s : State)
    (hi : i ∈ [Instr.nopGetDt x, .nopKeyWait x, .nopSkp x, .nopSknp x, .nopBcd x, .nopFont x, .nopSetSt x]) :
    exec i s = stub (encode i) s := by
  simp only [List.mem_cons, List.not_mem_nil, or_false] at hi
  rcases hi with rfl | rfl | rfl | rfl | rfl | rfl | rfl <;> rfl

/-- Settles O27: what `stub` does, at the word of each of the seven. -/
theorem stubsAreInert : Obligations.StubsAreInert := by
  intro x s i hi
  rw [exec_eq_stub s hi]
  exact stub_next (encode i) s

/-- `HALT.UNREC` is the entry of R206 alone: no advance follows it (R192, D25). -/
theorem exec_haltUnrec (w : Word) (s : State) :
    exec (.haltUnrec w) s = .next (s.stop .halted .unrecognized w) := rfl

/-- Settles O28: `stop` writes the record and nothing else, so `PC` keeps the word's address. -/
theorem unrecognizedEndsRun : Obligations.UnrecognizedEndsRun := fun w s =>
  ⟨_, exec_haltUnrec w s, s.stop_run .halted .unrecognized w, s.stop_cause .halted .unrecognized w,
    s.stop_info .halted .unrecognized w, onlyChanges_stop s .halted .unrecognized w⟩

end Sys2Proof.Machine
end

section
/-!
# The exceptions family (60_exceptions.md): the host keeps the invariants

The port writes only the timer's own fields. A load is a series of byte writes inside memory; the one violation it can end
with is at the first address outside, so `INFO` holds that address in full.
-/

namespace Sys2Proof.Machine

open Sys2Proof.Safety

variable {s : State} {a : Nat}

/-- The five invariants of R36, R151, R169 and R200 together, with memory in its canonical form. -/
def meetsInvariants (s : State) : Prop :=
  s.mem.wf = true ∧ addressesBounded s ∧ recordConsistent s ∧ requestSound s ∧ screenMatchesStream s

/-! ## The ROM load (R211, R212, R233) -/

theorem meetsInvariants_putByte (hs : meetsInvariants s) (ha : a < Config.memSize) (b : Byte) :
    meetsInvariants (s.putByte a b) := by
  obtain ⟨hmem, hrest⟩ := hs
  exact ⟨Memory.wf_put hmem ha b, hrest⟩

/-- The record is the one invariant a violation touches. -/
theorem meetsInvariants_violate (hs : meetsInvariants s) (hout : Config.memSize ≤ a) (hfit : a < 2 ^ 16) :
    meetsInvariants (s.violate a) := by
  obtain ⟨hmem, haddr, -, hrest⟩ := hs
  exact ⟨hmem, haddr, recordConsistent_of_violation rfl rfl (hout.trans_eq (violate_info_toNat s hfit).symm), hrest⟩

/-- Writing from an address not beyond the end of memory, an image that does not fit fails exactly at that end. -/
theorem meetsInvariants_loadFrom (rom : List Byte) (hs : meetsInvariants s) (ha : a ≤ Config.memSize) :
    meetsInvariants (loadFrom a rom s) := by
  induction rom generalizing a s with
  | nil => exact hs
  | cons b bs ih =>
    rcases ha.lt_or_eq with hin | rfl
    · rw [loadFrom_inside hin]
      exact ih (meetsInvariants_putByte hs hin b) hin
    · rw [loadFrom_outside (lt_irrefl _)]
      exact meetsInvariants_violate hs le_rfl (by decide)

theorem meetsInvariants_load (hs : meetsInvariants s) (rom : List Byte) : meetsInvariants (s.load rom) := by
  unfold State.load
  split
  · exact meetsInvariants_loadFrom rom hs (by decide)
  · exact hs

/-! ## The timer port (R169, R170) -/

/-- A request pends only where the timer is initialised. -/
theorem meetsInvariants_portRequest (hs : meetsInvariants s) : meetsInvariants s.portRequest := by
  cases hopen : s.portOpen with
  | false => rwa [State.portRequest_closed hopen]
  | true =>
    cases hvalid : s.dtValid with
    | false => rw [State.portRequest_uninit hopen hvalid]; exact hs
    | true =>
      obtain ⟨hmem, haddr, hrec, -, hscreen⟩ := hs
      rw [State.portRequest_valid hopen hvalid]
      exact ⟨hmem, haddr, hrec, fun _ => hvalid, hscreen⟩

theorem meetsInvariants_portReinitialise (hs : meetsInvariants s) (seed : Byte) :
    meetsInvariants (s.portReinitialise seed) := by
  cases hopen : s.portOpen with
  | false => rwa [State.portReinitialise_closed hopen]
  | true =>
    obtain ⟨hmem, haddr, hrec, -, hscreen⟩ := hs
    rw [State.portReinitialise_open hopen]
    exact ⟨hmem, haddr, hrec, fun _ => rfl, hscreen⟩

/-- Settles O48, one lemma for each of the host's operations. -/
theorem hostKeepsInvariants : Obligations.HostKeepsInvariants := by
  intro s rom seed hmem haddr hrec hreq hscreen t ht
  have hs : meetsInvariants s := ⟨hmem, haddr, hrec, hreq, hscreen⟩
  simp only [List.mem_cons, List.not_mem_nil, or_false] at ht
  rcases ht with rfl | rfl | rfl
  · exact meetsInvariants_load hs rom
  · exact meetsInvariants_portRequest hs
  · exact meetsInvariants_portReinitialise hs seed

end Sys2Proof.Machine
end

section
/-!
# The reset family (70_reset_and_hazards.md): the ROM load

A load writes one byte after another at rising addresses. An image that fits leaves each byte where it was written, since no
later write comes back to it; one that does not fit is a series of writes inside memory and then the violation at the first
address outside.
-/

namespace Sys2Proof.Machine

open Sys2Proof.Safety

variable {s : State} {a : Nat} {rom : List Byte}

/-- Inside memory a load writes the image's bytes and nothing else. -/
theorem onlyChanges_loadFrom (hfit : a + rom.length ≤ Config.memSize) : onlyChanges [.mem] s (loadFrom a rom s) := by
  induction rom generalizing a s with
  | nil => exact onlyChanges_refl _ _
  | cons b bs ih =>
    rw [List.length_cons] at hfit
    rw [loadFrom_inside (by omega)]
    exact onlyChanges_trans (onlyChanges_putByte s a b) (ih (by omega))

/-- An address outside the image keeps its byte. -/
theorem byteAt_loadFrom_outside (hfit : a + rom.length ≤ Config.memSize) {a' : Nat}
    (hout : a' < a ∨ a + rom.length ≤ a') : (loadFrom a rom s).byteAt a' = s.byteAt a' := by
  induction rom generalizing a s with
  | nil => rfl
  | cons b bs ih =>
    rw [List.length_cons] at hfit hout
    have hne : a' ≠ a := by omega
    rw [loadFrom_inside (by omega), ih (by omega) (by omega), State.byteAt_putByte, if_neg hne]

/-- Byte `k` of the image lies at `a + k`: the first is below all that is written after it. -/
theorem byteAt_loadFrom_inside (hfit : a + rom.length ≤ Config.memSize) {k : Nat} (hk : k < rom.length) :
    (loadFrom a rom s).byteAt (a + k) = rom[k] := by
  induction rom generalizing a s k with
  | nil => exact absurd hk (Nat.not_lt_zero k)
  | cons b bs ih =>
    rw [List.length_cons] at hfit
    rw [loadFrom_inside (by omega)]
    cases k with
    | zero =>
      have hlater : a < a + 1 ∨ a + 1 + bs.length ≤ a := .inl a.lt_add_one
      rw [add_zero, byteAt_loadFrom_outside (by omega) hlater, State.byteAt_putByte, if_pos rfl, List.getElem_cons_zero]
    | succ k =>
      rw [show a + (k + 1) = a + 1 + k by omega, ih (by omega) (Nat.lt_of_succ_lt_succ hk), List.getElem_cons_succ]

/-- An image that runs past the end of memory is abandoned there, with only bytes of memory written before (R212). -/
theorem loadFrom_past_end (ha : a ≤ Config.memSize) (hlong : Config.memSize < a + rom.length) :
    ∃ u, onlyChanges [.mem] s u ∧ loadFrom a rom s = u.violate Config.memSize := by
  induction rom generalizing a s with
  | nil => exact absurd hlong ha.not_gt
  | cons b bs ih =>
    rcases ha.lt_or_eq with hin | rfl
    · rw [List.length_cons] at hlong
      obtain ⟨u, hu, hload⟩ := ih (a := a + 1) (s := s.putByte a b) hin (by omega)
      exact ⟨u, onlyChanges_trans (onlyChanges_putByte s a b) hu, (loadFrom_inside hin b bs s).trans hload⟩
    · exact ⟨s, onlyChanges_refl _ _, loadFrom_outside (lt_irrefl _) b bs s⟩

/-- Memory holds 3584 bytes from the load's base on (R233). -/
theorem loadBase_add_le_memSize_iff {n : Nat} : Config.loadBase + n ≤ Config.memSize ↔ n ≤ 3584 := by
  unfold Config.loadBase Config.memSize
  omega

/-- Settles O42, a clause each for an image that fits, one that does not, and a load after the first step or the end. -/
theorem loadPlacesImage : Obligations.LoadPlacesImage := by
  intro s rom
  refine ⟨fun hrun hstart hlen => ?_, fun hrun hstart hlen => ?_, fun h => State.load_after h rom⟩
  · have hfit := loadBase_add_le_memSize_iff.2 hlen
    rw [State.load_before hrun hstart]
    exact ⟨fun k hk => byteAt_loadFrom_inside hfit hk, fun a ha => byteAt_loadFrom_outside hfit ha, onlyChanges_loadFrom hfit⟩
  · have hlong := not_le.1 (mt loadBase_add_le_memSize_iff.1 hlen.not_ge)
    obtain ⟨u, hu, hload⟩ := loadFrom_past_end (s := s) (by decide) hlong
    rw [State.load_before hrun hstart, hload]
    exact ⟨⟨rfl, rfl, violate_info_toNat u (by decide)⟩, onlyChanges_comp hu (onlyChanges_stop _ _ _ _), step_of_fatal rfl⟩

end Sys2Proof.Machine
end
